-- ==== Sys2Proof/Word.lean ====
section
/-! DEFINITION. The word types of the HF-MD4 engine (00_scope R9). -/

namespace Sys2Proof

/-- `u32` of R9: arithmetic is modulo 2^32, the logical operators are bitwise. -/
abbrev Word := BitVec 32

/-- `byte` of R9. -/
abbrev Byte := BitVec 8

/-- `u64` of R9. -/
abbrev DWord := BitVec 64

/-- Four words in the order A, B, C, D: the shape of the chaining state (10_state R22) and of the
digest registers DIGEST0 to DIGEST3 (R38). -/
structure Quad where
  a : Word
  b : Word
  c : Word
  d : Word
deriving DecidableEq, Repr

/-- All four words zero. -/
def Quad.zero : Quad := ⟨0, 0, 0, 0⟩

end Sys2Proof
end

