-- ==== Sys2Proof/Config.lean ====
section
/-! DEFINITION. The parameters of the engine (00_scope R7): the values this hardware fixes, and the ones the
spec leaves open, which are constants without a body. -/

namespace Sys2Proof.Config

/-- `MAXLEN` of R7, the largest message length in bytes. -/
def maxLen : Nat := 2 ^ 61 - 1

/-- The initial chaining value (41_compression R132). -/
def iv : Quad := ⟨0x67452301, 0xefcdab89, 0x98badcfe, 0x10325476⟩

/-- The hardwired `ID` register (10_state R24). -/
def idWord : Word := 0x4D443401

/-- The bus response of one access (20_memory R63). -/
inductive BusStatus where
  | okay
  | error
deriving DecidableEq, Repr, Inhabited

/-- `BUSERR_RESPONSE` (92 D4, 93 U5): what the bus answers to a rejected access. Open. -/
opaque busErrResponse : BusStatus

/-- FREE VALUE (10_state R49, 93 U1): what the i-th unspecified read of one sequence returns, "each read drawn
independently". Applied to `State.stream`, which sequence, and the counter `State.draws`. Log 4. -/
opaque busyRead : Nat → Nat → Word

/-- `N_ENGINES` is this number plus one (R7: an integer ≥ 1). Open. -/
opaque moreEngines : Nat

/-- `N_ENGINES` (92 D25). -/
def nEngines : Nat := moreEngines + 1

/-- `BASE_k` is 512 times this number (R7: 512-byte aligned). Open. -/
opaque baseIndex : Nat → Nat

/-- `BASE_k`, the bus base address of instance k (92 D3). -/
def base (k : Nat) : Nat := 512 * baseIndex k

/-- `IRQ_LINE_k`, the host interrupt number of instance k's `IRQ` (92 D21). Open. -/
opaque irqLine : Nat → Nat

end Sys2Proof.Config
end

