-- ==== Sys2Proof/Machine/Bits.lean ====
section
/-! DEFINITION. Little-endian conversions between words and bytes (00_scope R10, 20_memory R62). -/

namespace Sys2Proof.Machine

/-- Byte b of a word: bits 8b+7:8b (20_memory R62 item 1). -/
def byteOf (w : Word) (b : Nat) : Byte := w.extractLsb' (8 * b) 8

/-- `le32` of R10: the first byte is the least significant. -/
def le32 (b0 b1 b2 b3 : Byte) : Word := b3 ++ b2 ++ b1 ++ b0

/-- `le32bytes` of R10. -/
def le32bytes (w : Word) : List Byte := [byteOf w 0, byteOf w 1, byteOf w 2, byteOf w 3]

/-- `le64bytes` of R10. -/
def le64bytes (v : DWord) : List Byte := (List.range 8).map fun k => v.extractLsb' (8 * k) 8

/-- Word i of a byte sequence: `le32(p[4i], p[4i+1], p[4i+2], p[4i+3])` (41_compression R133). Bytes past the end
count as 0x00. -/
def wordAt (p : List Byte) (i : Nat) : Word :=
  le32 (p.getD (4 * i) 0) (p.getD (4 * i + 1) 0) (p.getD (4 * i + 2) 0) (p.getD (4 * i + 3) 0)

/-- The low half of a u64. -/
def loWord (v : DWord) : Word := v.extractLsb' 0 32

/-- The high half of a u64. -/
def hiWord (v : DWord) : Word := v.extractLsb' 32 32

end Sys2Proof.Machine
end

