-- ==== Sys2Proof/Machine/Compress.lean ====
section
/-! DEFINITION. The MD4 compression function (41_compression R130 to R144). -/

namespace Sys2Proof.Machine

/-- `rotl(x, s)` of R134. -/
def rotl (x : Word) (s : Nat) : Word :=
  if s = 0 then x else (x <<< s) ||| (x >>> (32 - s))

/-- Round 1 function (R135). -/
def roundF (x y z : Word) : Word := (x &&& y) ||| (~~~x &&& z)

/-- Round 2 function (R136). -/
def roundG (x y z : Word) : Word := (x &&& y) ||| (x &&& z) ||| (y &&& z)

/-- Round 3 function (R137). -/
def roundH (x y z : Word) : Word := x ^^^ y ^^^ z

/-- The round function of a step. -/
inductive RoundFn where
  | F | G | H
deriving DecidableEq, Repr

/-- A round function on its three arguments. -/
def RoundFn.apply : RoundFn → Word → Word → Word → Word
  | .F => roundF
  | .G => roundG
  | .H => roundH

/-- The additive constant of a round (R138). -/
def RoundFn.constant : RoundFn → Word
  | .F => 0x00000000
  | .G => 0x5a827999
  | .H => 0x6ed9eba1

/-- The names of the four working words. -/
inductive Letter where
  | A | B | C | D
deriving DecidableEq, Repr

/-- `W[l]` of R141. -/
def getLetter (w : Quad) : Letter → Word
  | .A => w.a
  | .B => w.b
  | .C => w.c
  | .D => w.d

/-- `W[l] := v` of R141. -/
def setLetter (w : Quad) (l : Letter) (v : Word) : Quad :=
  match l with
  | .A => { w with a := v }
  | .B => { w with b := v }
  | .C => { w with c := v }
  | .D => { w with d := v }

/-- The letter after l in the cyclic order A → B → C → D → A (R140). -/
def Letter.next : Letter → Letter
  | .A => .B
  | .B => .C
  | .C => .D
  | .D => .A

/-- acc at position p of a group of four: round-robin A, D, C, B (R140). -/
def accAt (p : Nat) : Letter :=
  match p % 4 with
  | 0 => .A
  | 1 => .D
  | 2 => .C
  | _ => .B

/-- One row of the schedule of R139; x, y, z are the three letters after acc (R140) and K is the round's constant
(R138). -/
structure StepRow where
  f : RoundFn
  acc : Letter
  k : Fin 16
  s : Nat
deriving DecidableEq, Repr

/-- The sixteen rows of one round, from its word order and its four rotation amounts (R139): the amount at position
i is the (i mod 4)-th. -/
def roundRows (f : RoundFn) (order : List (Fin 16)) (amounts : List Nat) : List StepRow :=
  order.mapIdx fun i k => { f := f, acc := accAt i, k := k, s := amounts.getD (i % 4) 0 }

/-- Round 1 (R139). -/
def round1 : List StepRow :=
  roundRows .F [0, 1, 2, 3, 4, 5, 6, 7, 8, 9, 10, 11, 12, 13, 14, 15] [3, 7, 11, 19]

/-- Round 2 (R139). -/
def round2 : List StepRow :=
  roundRows .G [0, 4, 8, 12, 1, 5, 9, 13, 2, 6, 10, 14, 3, 7, 11, 15] [3, 5, 9, 13]

/-- Round 3 (R139). -/
def round3 : List StepRow :=
  roundRows .H [0, 8, 4, 12, 2, 10, 6, 14, 1, 9, 5, 13, 3, 11, 7, 15] [3, 9, 11, 15]

/-- The 48 steps in order (R139). -/
def schedule : List StepRow := round1 ++ round2 ++ round3

/-- `X[0..15]`, the block as sixteen little-endian words (R131, R133). -/
def blockWords (block : List Byte) : Vector Word 16 := Vector.ofFn fun i => wordAt block i.val

/-- The sum t of one step (R141): acc, the round function of the three other words, the block word, the constant. -/
def stepSum (x : Vector Word 16) (w : Quad) (r : StepRow) : Word :=
  getLetter w r.acc
    + r.f.apply (getLetter w r.acc.next) (getLetter w r.acc.next.next) (getLetter w r.acc.next.next.next)
    + x[r.k] + r.f.constant

/-- One step (R142): only acc is written. -/
def stepWords (x : Vector Word 16) (w : Quad) (r : StepRow) : Quad :=
  setLetter w r.acc (rotl (stepSum x w r) r.s)

/-- The chaining addition, word by word modulo 2^32 (R141). -/
def addQuad (w saved : Quad) : Quad := ⟨w.a + saved.a, w.b + saved.b, w.c + saved.c, w.d + saved.d⟩

/-- `compress(cv, block)` of R141, for a block of 64 bytes. The hidden working state of 10_state R23 is here:
the saved words are `cv`, the block words `blockWords block`, the step counter the place in `schedule`. -/
def compress (cv : Quad) (block : List Byte) : Quad :=
  addQuad (schedule.foldl (stepWords (blockWords block)) cv) cv

/-- `serialize` of R143: sixteen bytes. -/
def serialize (q : Quad) : List Byte := le32bytes q.a ++ le32bytes q.b ++ le32bytes q.c ++ le32bytes q.d

/-- `parse` of 43_forge R182, for sixteen bytes. -/
def parse (p : List Byte) : Quad := ⟨wordAt p 0, wordAt p 1, wordAt p 2, wordAt p 3⟩

end Sys2Proof.Machine
end

