-- ==== Sys2Proof/Syntax.lean ====
section
/-! DEFINITION. The commands of the engine: one constructor per row of the opcode table (30_encoding R83). -/

namespace Sys2Proof

/-- A command. `n` is the field N, bits 14:8 of the command word (R81, R82). -/
inductive Instr where
  /-- INIT: start a session at the IV (40_session R100). -/
  | init
  /-- UPDATE n: feed the first n bytes of MSG_IN (40_session R103). -/
  | update (n : BitVec 7)
  /-- FINAL: pad, compress what remains, emit the digest (40_session R106). -/
  | final
  /-- PAD: the padding oracle of the length in LEN (42_padding R163). -/
  | pad
  /-- SEED n: start a session from a digest and a length (43_forge R184). -/
  | seed (n : BitVec 7)
  /-- DISCARD: end any session (40_session R109). -/
  | discard
deriving DecidableEq, Repr

end Sys2Proof
end

