-- ==== Sys2Proof/WellFormed.lean ====
section
/-! DEFINITION. Which commands have a command word (30_encoding R82, R84). -/

namespace Sys2Proof

/-- UPDATE takes 0 to 64 bytes (R82, R85); every value of SEED's N decodes (R84), and the other commands have no
operand. -/
abbrev Instr.WellFormed : Instr → Prop
  | .init => True
  | .update n => n.toNat ≤ 64
  | .final => True
  | .pad => True
  | .seed _ => True
  | .discard => True

end Sys2Proof
end

