-- ==== Sys2Proof/Decode.lean ====
section
/-! DEFINITION. The command word: decoder and encoder (30_encoding R80 to R87). -/

namespace Sys2Proof

/-- Why a word is no command: the IllegalCommand INFO values 1 to 4 of 30_encoding R85. -/
inductive Illegal where
  /-- INFO 1: bits 31:15 are not 0. -/
  | reservedBits
  /-- INFO 2: OP is 0x00 or 0x07 to 0xFF. -/
  | undefinedOp
  /-- INFO 3: INIT, FINAL, PAD or DISCARD with N ≠ 0. -/
  | strayCount
  /-- INFO 4: UPDATE with N > 64. -/
  | longUpdate
deriving DecidableEq, Repr

/-- What the decoder answers: the decoder is total (R84). -/
inductive Decoded where
  | command (i : Instr)
  | illegal (why : Illegal)
deriving DecidableEq, Repr

/-- OP, bits 7:0 of the command word (R81). -/
def opField (c : Word) : Byte := c.extractLsb' 0 8

/-- N, bits 14:8 of the command word (R81). -/
def nField (c : Word) : BitVec 7 := c.extractLsb' 8 7

/-- RSV, bits 31:15 of the command word (R81). -/
def reservedField (c : Word) : BitVec 17 := c.extractLsb' 15 17

/-- A command without operand: N must be 0 (R84, INFO 3). -/
def decodePlain (n : BitVec 7) (i : Instr) : Decoded :=
  if n = 0 then .command i else .illegal .strayCount

/-- `decode` of R84: the checks in the order INFO 1, 2, 3, 4. -/
def decode (c : Word) : Decoded :=
  if reservedField c ≠ 0 then .illegal .reservedBits
  else if opField c = 0x01 then decodePlain (nField c) .init
  else if opField c = 0x02 then
    if (nField c).toNat > 64 then .illegal .longUpdate else .command (.update (nField c))
  else if opField c = 0x03 then decodePlain (nField c) .final
  else if opField c = 0x04 then decodePlain (nField c) .pad
  else if opField c = 0x05 then .command (.seed (nField c))
  else if opField c = 0x06 then decodePlain (nField c) .discard
  else .illegal .undefinedOp

/-- The opcode of a command (R83). -/
def Instr.opcode : Instr → Byte
  | .init => 0x01
  | .update _ => 0x02
  | .final => 0x03
  | .pad => 0x04
  | .seed _ => 0x05
  | .discard => 0x06

/-- The N field of a command (R83). -/
def Instr.count : Instr → BitVec 7
  | .init => 0
  | .update n => n
  | .final => 0
  | .pad => 0
  | .seed n => n
  | .discard => 0

/-- The one word of a command (R81, R83). -/
def encode (i : Instr) : Word := 0#17 ++ i.count ++ i.opcode

/-- The decoder on a word numbered as the opcode table numbers it: one 32-bit word, bit 0 the least significant
(R80, R87). Bits at `nbits` and above are 0. -/
def decodeTableWord (nbits w : Nat) : Option Instr :=
  match decode (BitVec.ofNat 32 (w % 2 ^ nbits)) with
  | .command i => some i
  | .illegal _ => none

end Sys2Proof
end

