-- ==== Sys2Proof/Machine/State.lean ====
section
/-! DEFINITION. The state of one engine instance (10_state R20), the transitions that wait for it, and its reset
value (10_state R46). -/

namespace Sys2Proof.Machine

/-- STATUS.SESSION (10_state R32). The fourth code, 3, is never produced and has no constructor. -/
inductive Session where
  /-- 0: no session, after reset or DISCARD. -/
  | idle
  /-- 1: a session accepts UPDATE and FINAL, after INIT or SEED. -/
  | active
  /-- 2: after FINAL. -/
  | finalized
deriving DecidableEq, Repr

/-- The registers of the window (10_state R46). -/
inductive Reg where
  | id | cmd | status | result | irqEn | bufLen | countLo | countHi
  | cvA | cvB | cvC | cvD
  | digest0 | digest1 | digest2 | digest3
  | lenLo | lenHi | padOutLen
  | msgIn (i : Fin 16)
  | padOut (i : Fin 18)
deriving DecidableEq, Repr

/-- One host access to the register window (20_memory R61, R63): `size` in bytes, `off` the offset bits 8:0 from
`BASE_k` (70_reset R242). -/
inductive Access where
  | read (size : Nat) (off : BitVec 9)
  | write (size : Nat) (off : BitVec 9) (v : Word)
deriving DecidableEq, Repr

/-- A transition of the instance (00_scope R12): "a host bus access, an engine command execution, or a reset". -/
inductive Event where
  /-- A host bus access. -/
  | access (a : Access)
  /-- The engine's turn: the latched command, if there is one, is executed (60_exceptions R202). -/
  | engine
  /-- RESET or power-on (70_reset R240). -/
  | reset
deriving DecidableEq, Repr

/-- What the bus answers to one access: the word read, if it was a read, and the bus response. -/
inductive Answer where
  | read (v : Word) (r : Config.BusStatus)
  | wrote (r : Config.BusStatus)
deriving DecidableEq, Repr

/-- Why a command fails (60_exceptions R201), with the sub-causes apart. -/
inductive Failure where
  /-- MalformedDigest INFO 1: SEED with N ≠ 16. -/
  | digestSize
  /-- InvalidLength INFO 1: LEN is negative. -/
  | lengthNegative
  /-- InvalidLength INFO 2: LEN > MAXLEN. -/
  | lengthTooLong
  /-- SessionState INFO 1: no session. -/
  | noSession
  /-- SessionState INFO 2: the session is finalized. -/
  | sessionFinalized
  /-- LengthOverflow INFO 1: COUNT + N > MAXLEN on UPDATE. -/
  | countOverflow
  /-- LengthOverflow INFO 2: L + len(padding_for(L)) > MAXLEN on SEED. -/
  | seedOverflow
  /-- IllegalCommand INFO 1 to 4. -/
  | illegalCommand (why : Illegal)
deriving DecidableEq, Repr

/-- One engine instance. The fields down to `latch` are the architectural state of 10_state R20, and "Nothing else
is state"; the last four are the model's own (logs 1, 4 and 6). -/
structure State where
  /-- The chaining state A, B, C, D (R22), read as CV_A to CV_D (R37). -/
  cv : Quad
  /-- The meaningful bytes BUF[0..BUF_LEN-1] (R43); BUF_LEN (R35) is the length. Log 3. -/
  buf : List Byte
  /-- COUNT (R36), read as COUNT_LO and COUNT_HI. -/
  count : DWord
  /-- STATUS.SESSION (R32). -/
  session : Session
  /-- DIGEST0 to DIGEST3 (R38). -/
  digest : Quad
  /-- MSG_IN0 to MSG_IN15 (R41). -/
  msgIn : Vector Word 16
  /-- LEN_LO (R39). -/
  lenLo : Word
  /-- LEN_HI (R39). -/
  lenHi : Word
  /-- PAD_OUT0 to PAD_OUT17 (R42). -/
  padOut : Vector Word 18
  /-- PAD_OUT_LEN (R40). -/
  padOutLen : BitVec 7
  /-- STATUS.DONE (R28). -/
  done : Bool
  /-- STATUS.ERR (R29). -/
  err : Bool
  /-- STATUS.OVR (R30). -/
  ovr : Bool
  /-- STATUS.BUSERR (R31). -/
  busErr : Bool
  /-- RESULT (R33): CODE 3:0, INFO 7:4, OP 15:8. -/
  result : BitVec 16
  /-- IRQ_EN.DONE_IE (R34). -/
  doneIe : Bool
  /-- IRQ_EN.ERR_IE (R34). -/
  errIe : Bool
  /-- The pending command latch (R44): its valid bit is STATUS.BUSY (R27). -/
  latch : Option Word
  /-- MODEL'S OWN (log 1): the transitions still to come, oldest first. -/
  agenda : List Event
  /-- MODEL'S OWN (log 4): how many free read values have been drawn. -/
  draws : Nat
  /-- MODEL'S OWN (log 4): which sequence of free read values the draws are taken from. -/
  stream : Nat
  /-- MODEL'S OWN (log 6): what the bus has answered to the host, newest first. -/
  answers : List Answer
deriving DecidableEq, Repr

/-- Reasons to stop. The engine has none: it raises no trap (60_exceptions R205), a failed command completes (R204),
a rejected access answers (20_memory R63), and every word decodes or fails (30_encoding R84). No constructor, so
that no step can stop. Log 10. -/
inductive Fault where
deriving DecidableEq, Repr

/-- Reasons not to give a meaning. -/
inductive Refusal where
  /-- Raised by an arm of `exec` whose instruction has no meaning yet: safe. No arm raises it. -/
  | notModelled (mnemonic : String)
deriving DecidableEq, Repr

/-- The machine right after reset: 10_state R46, 70_reset R240. Every register has the value the spec states; the
last four fields are the model's own (logs 1, 4 and 6). -/
def State.reset : State where
  cv := Quad.zero
  buf := []
  count := 0
  session := .idle
  digest := Quad.zero
  msgIn := Vector.replicate 16 0
  lenLo := 0
  lenHi := 0
  padOut := Vector.replicate 18 0
  padOutLen := 0
  done := false
  err := false
  ovr := false
  busErr := false
  result := 0
  doneIe := false
  errIe := false
  latch := none
  agenda := []
  draws := 0
  stream := 0
  answers := []

end Sys2Proof.Machine
end

