-- ==== Sys2Proof/Machine/Flags.lean ====
section
/-! DEFINITION. The flags and status words: STATUS, RESULT, IRQ_EN and the IRQ output. -/

namespace Sys2Proof.Machine

/-- The two bits of STATUS.SESSION (10_state R32). -/
def Session.code : Session → BitVec 2
  | .idle => 0
  | .active => 1
  | .finalized => 2

/-- STATUS.BUSY: the valid bit of the latch (R27, R44). -/
def State.busy (s : State) : Bool := s.latch.isSome

/-- The word of STATUS with the given SESSION bits (R26): bits 31:7 are 0. -/
def statusWith (s : State) (session : BitVec 2) : Word :=
  0#25 ++ session ++ BitVec.ofBool s.busErr ++ BitVec.ofBool s.ovr ++ BitVec.ofBool s.err
    ++ BitVec.ofBool s.done ++ BitVec.ofBool s.busy

/-- STATUS (R26). -/
def statusWord (s : State) : Word := statusWith s s.session.code

/-- A write to STATUS (R26): each W1C bit written with 1 is cleared, everything else stays. -/
def writeStatus (v : Word) (s : State) : State :=
  { s with
    done := s.done && !v.getLsbD 1
    err := s.err && !v.getLsbD 2
    ovr := s.ovr && !v.getLsbD 3
    busErr := s.busErr && !v.getLsbD 4 }

/-- IRQ_EN as read (R34). -/
def irqEnWord (s : State) : Word := 0#30 ++ BitVec.ofBool s.errIe ++ BitVec.ofBool s.doneIe

/-- A write to IRQ_EN (R34): bits 31:2 are ignored. -/
def writeIrqEn (v : Word) (s : State) : State := { s with doneIe := v.getLsbD 0, errIe := v.getLsbD 1 }

/-- The IRQ output (60_exceptions R210): a level, a function of the current state. -/
def State.irq (s : State) : Bool := (s.done && s.doneIe) || (s.err && s.errIe)

/-- IllegalCommand INFO (30_encoding R85). -/
def illegalInfo : Illegal → BitVec 4
  | .reservedBits => 1
  | .undefinedOp => 2
  | .strayCount => 3
  | .longUpdate => 4

/-- RESULT.CODE of a failure (60_exceptions R201). -/
def Failure.code : Failure → BitVec 4
  | .digestSize => 2
  | .lengthNegative => 3
  | .lengthTooLong => 3
  | .noSession => 4
  | .sessionFinalized => 4
  | .countOverflow => 5
  | .seedOverflow => 5
  | .illegalCommand _ => 6

/-- RESULT.INFO of a failure (60_exceptions R201). -/
def Failure.info : Failure → BitVec 4
  | .digestSize => 1
  | .lengthNegative => 1
  | .lengthTooLong => 2
  | .noSession => 1
  | .sessionFinalized => 2
  | .countOverflow => 1
  | .seedOverflow => 2
  | .illegalCommand why => illegalInfo why

/-- RESULT after success (60_exceptions R203): `c[7:0] << 8`. -/
def okResult (op : Byte) : BitVec 16 := op ++ 0#8

/-- RESULT after a failure (60_exceptions R204): `(c[7:0] << 8) | (info << 4) | code`. -/
def failResult (op : Byte) (f : Failure) : BitVec 16 := op ++ f.info ++ f.code

/-- RESULT.CODE (10_state R33). -/
def resultCode (r : BitVec 16) : BitVec 4 := r.extractLsb' 0 4

/-- RESULT.INFO (10_state R33). -/
def resultInfo (r : BitVec 16) : BitVec 4 := r.extractLsb' 4 4

/-- RESULT.OP (10_state R33). -/
def resultOp (r : BitVec 16) : Byte := r.extractLsb' 8 8

end Sys2Proof.Machine
end

