-- ==== Sys2Proof/Machine/Padding.lean ====
section
/-! DEFINITION. The padding rule (42_padding R160, R161). -/

namespace Sys2Proof.Machine

/-- The number of zero bytes, `(55 - L) mod 64` with the mathematical modulus (R161, 00_scope R9). -/
def zeroBytes (L : Nat) : Nat := ((55 - (L : Int)) % 64).toNat

/-- `padding_for(L)` of R161, for 0 ≤ L ≤ MAXLEN, where `8·L` fits in the 64 bits of the length field. -/
def paddingFor (L : Nat) : List Byte :=
  0x80 :: (List.replicate (zeroBytes L) 0x00 ++ le64bytes (BitVec.ofNat 64 (8 * L)))

end Sys2Proof.Machine
end

