-- ==== Sys2Proof/Machine/Operands.lean ====
section
/-! DEFINITION. The operands a command reads (30_encoding R82): input bytes, the length operand, and the checks on
them. -/

namespace Sys2Proof.Machine

/-- `msgbyte(k)` of 00_scope R11, for k in 0..63. -/
def msgByte (s : State) (k : Nat) : Byte := byteOf ((s.msgIn[k / 4]?).getD 0) (k % 4)

/-- `msgbyte(0) ‖ … ‖ msgbyte(n-1)`. -/
def msgBytes (s : State) (n : Nat) : List Byte := (List.range n).map (msgByte s)

/-- `LEN = LEN_HI·2^32 + LEN_LO` (10_state R39). -/
def lenOperand (s : State) : DWord := s.lenHi ++ s.lenLo

/-- `lenval()` of 10_state R52. -/
def lenVal (s : State) : Except Failure Nat :=
  if (lenOperand s).msb then .error .lengthNegative
  else if (lenOperand s).toNat > Config.maxLen then .error .lengthTooLong
  else .ok (lenOperand s).toNat

/-- The session check of UPDATE and FINAL (40_session R103, R106): `none` when the session is active. -/
def sessionFailure (s : State) : Option Failure :=
  match s.session with
  | .idle => some .noSession
  | .active => none
  | .finalized => some .sessionFinalized

/-- The checks of UPDATE n in their order (R103). -/
def updateFailure (n : BitVec 7) (s : State) : Option Failure :=
  match sessionFailure s with
  | some f => some f
  | none => if s.count.toNat + n.toNat > Config.maxLen then some .countOverflow else none

/-- The checks of SEED n in their order (43_forge R184): the length L, or the first failure. -/
def seedLength (n : BitVec 7) (s : State) : Except Failure Nat :=
  if n ≠ 16 then .error .digestSize
  else match lenVal s with
    | .error f => .error f
    | .ok L => if L + (paddingFor L).length > Config.maxLen then .error .seedOverflow else .ok L

end Sys2Proof.Machine
end

