-- ==== Sys2Proof/Machine/Ops.lean ====
section
/-! DEFINITION. The operations the commands share: acceptance, completion, failure, feeding bytes, loading a session,
writing the padding window, reset. -/

namespace Sys2Proof.Machine

/-- Acceptance of a word written to CMD (60_exceptions R200). -/
def accept (c : Word) (s : State) : State := { s with latch := some c, done := false }

/-- `complete_ok(c)` of 60_exceptions R203, with `op = c[7:0]`. -/
def completeOk (op : Byte) (s : State) : State :=
  { s with result := okResult op, done := true, latch := none }

/-- `complete_fail(c, code, info)` of 60_exceptions R204, with `op = c[7:0]`. This is the engine's one exception: it
takes no vector and saves no pc (R205, R208), it records the failure and nothing else changes. -/
def completeFail (op : Byte) (f : Failure) (s : State) : State :=
  { s with result := failResult op f, err := true, done := true, latch := none }

/-- Chaining state and buffer: what `absorb` works on. -/
structure Sponge where
  cv : Quad
  buf : List Byte
deriving DecidableEq, Repr

/-- One turn of the loop of `absorb` (40_session R102). -/
def absorbByte (p : Sponge) (b : Byte) : Sponge :=
  if (p.buf ++ [b]).length = 64 then ⟨compress p.cv (p.buf ++ [b]), []⟩ else ⟨p.cv, p.buf ++ [b]⟩

/-- `absorb(d)` of 40_session R102 on chaining state and buffer. -/
def absorb (p : Sponge) (d : List Byte) : Sponge := d.foldl absorbByte p

/-- `absorb(d)` on the session's own chaining state and buffer. COUNT does not change (R102). -/
def absorbInto (d : List Byte) (s : State) : State :=
  { s with cv := (absorb ⟨s.cv, s.buf⟩ d).cv, buf := (absorb ⟨s.cv, s.buf⟩ d).buf }

/-- Loads a session with an empty buffer: INIT, SEED and DISCARD (R100, R184, R109). -/
def loadSession (cv : Quad) (count : Nat) (session : Session) (s : State) : State :=
  { s with cv := cv, buf := [], count := BitVec.ofNat 64 count, session := session }

/-- `COUNT <- COUNT + n` (R103). -/
def addCount (n : Nat) (s : State) : State := { s with count := BitVec.ofNat 64 (s.count.toNat + n) }

/-- `(DIGEST0, …, DIGEST3) <- (A, B, C, D) ; SESSION <- FINALIZED` (R106). -/
def emitDigest (s : State) : State := { s with digest := s.cv, session := .finalized }

/-- The padding window holding the bytes p, the rest 0x00 (10_state R42). -/
def packPadding (p : List Byte) : Vector Word 18 := Vector.ofFn fun i => wordAt p i.val

/-- `PAD_OUT byte k <- (p[k] if k < len(p) else 00) ; PAD_OUT_LEN <- len(p)` (42_padding R163, 43_forge R184). -/
def writePadding (p : List Byte) (s : State) : State :=
  { s with padOut := packPadding p, padOutLen := BitVec.ofNat 7 p.length }

/-- Byte k of PAD_OUT (10_state R42). -/
def padByte (s : State) (k : Nat) : Byte := byteOf ((s.padOut[k / 4]?).getD 0) (k % 4)

/-- RESET or power-on (70_reset R240, R241): every register and hidden state takes its value of 10_state R46. What
the agents still do, and what the host has seen, is not the engine's (log 5). -/
def resetEngine (s : State) : State :=
  { State.reset with agenda := s.agenda, draws := s.draws, stream := s.stream, answers := s.answers }

end Sys2Proof.Machine
end

