-- ==== Sys2Proof/Machine/RegMap.lean ====
section
/-! DEFINITION. The register map of the window (10_state R46, R47). -/

namespace Sys2Proof.Machine

/-- The offset of a register (R46). -/
def Reg.offset : Reg → Nat
  | .id => 0x000
  | .cmd => 0x004
  | .status => 0x008
  | .result => 0x00C
  | .irqEn => 0x010
  | .bufLen => 0x014
  | .countLo => 0x018
  | .countHi => 0x01C
  | .cvA => 0x020
  | .cvB => 0x024
  | .cvC => 0x028
  | .cvD => 0x02C
  | .digest0 => 0x030
  | .digest1 => 0x034
  | .digest2 => 0x038
  | .digest3 => 0x03C
  | .lenLo => 0x040
  | .lenHi => 0x044
  | .padOutLen => 0x048
  | .msgIn i => 0x080 + 4 * i.val
  | .padOut i => 0x0C0 + 4 * i.val

/-- Every register of the window, in the order of the map. -/
def allRegs : List Reg :=
  [.id, .cmd, .status, .result, .irqEn, .bufLen, .countLo, .countHi, .cvA, .cvB, .cvC, .cvD,
   .digest0, .digest1, .digest2, .digest3, .lenLo, .lenHi, .padOutLen]
  ++ (List.finRange 16).map .msgIn ++ (List.finRange 18).map .padOut

/-- The register at an offset, `none` where the offset is no register's: unmapped (R47) or misaligned. -/
def regAt (off : Nat) : Option Reg := allRegs.find? fun r => r.offset == off

/-- The register an access reaches, `none` where the access is rejected (20_memory R63): the size is not 4 bytes, the
offset is no multiple of 4, or it is unmapped. -/
def accessReg (size : Nat) (off : BitVec 9) : Option Reg :=
  if size ≠ 4 then none
  else if off.toNat % 4 ≠ 0 then none
  else regAt off.toNat

/-- The registers whose read is unspecified while BUSY (10_state R49). STATUS.SESSION is the remaining one. -/
def Reg.unspecifiedWhileBusy : Reg → Bool
  | .result | .bufLen | .countLo | .countHi | .cvA | .cvB | .cvC | .cvD => true
  | .digest0 | .digest1 | .digest2 | .digest3 | .padOutLen | .padOut _ => true
  | .id | .cmd | .status | .irqEn | .lenLo | .lenHi | .msgIn _ => false

/-- The bits of a register that are not reserved (10_state R33, R35, R40): the reserved bits of RESULT, BUF_LEN and
PAD_OUT_LEN read as zero in every read, "fixed, not free" (93 U12). Of the registers R49 names these are all that have
reserved bits. -/
def Reg.fieldMask : Reg → Word
  | .result => 0x0000FFFF
  | .bufLen => 0x0000003F
  | .padOutLen => 0x0000007F
  | .id | .cmd | .status | .irqEn | .countLo | .countHi | .cvA | .cvB | .cvC | .cvD => 0xFFFFFFFF
  | .digest0 | .digest1 | .digest2 | .digest3 | .lenLo | .lenHi | .msgIn _ | .padOut _ => 0xFFFFFFFF

/-- The registers whose write is dropped while BUSY, with OVR set (70_reset R250). -/
def Reg.lockedWhileBusy : Reg → Bool
  | .cmd | .msgIn _ | .lenLo | .lenHi => true
  | .id | .status | .result | .irqEn | .bufLen | .countLo | .countHi | .cvA | .cvB | .cvC | .cvD => false
  | .digest0 | .digest1 | .digest2 | .digest3 | .padOutLen | .padOut _ => false

end Sys2Proof.Machine
end

