-- ==== Sys2Proof/Machine/Bus.lean ====
section
/-! DEFINITION. Host accesses to the register window (20_memory R61 to R66, 10_state R48, R49, 70_reset R250). -/

namespace Sys2Proof.Machine

/-- The exact value of a register (10_state R24 to R42). CMD reads 0 (R25, R48). -/
def peek (s : State) : Reg → Word
  | .id => Config.idWord
  | .cmd => 0
  | .status => statusWord s
  | .result => 0#16 ++ s.result
  | .irqEn => irqEnWord s
  | .bufLen => BitVec.ofNat 32 s.buf.length
  | .countLo => loWord s.count
  | .countHi => hiWord s.count
  | .cvA => s.cv.a
  | .cvB => s.cv.b
  | .cvC => s.cv.c
  | .cvD => s.cv.d
  | .digest0 => s.digest.a
  | .digest1 => s.digest.b
  | .digest2 => s.digest.c
  | .digest3 => s.digest.d
  | .lenLo => s.lenLo
  | .lenHi => s.lenHi
  | .padOutLen => 0#25 ++ s.padOutLen
  | .msgIn i => s.msgIn[i]
  | .padOut i => s.padOut[i]

/-- The byte at a window offset (20_memory R62 item 1), `none` where the offset is unmapped (10_state R47). -/
def windowByte (s : State) (off : Nat) : Option Byte :=
  (regAt (4 * (off / 4))).map fun r => byteOf (peek s r) (off % 4)

/-- Whether a read of r draws an unspecified value now (10_state R49). -/
def drawsFree (s : State) (r : Reg) : Bool := s.busy && (r.unspecifiedWhileBusy || r == .status)

/-- The next free value of this engine: the draw `draws` of its own sequence `stream` (log 4). -/
def freeWord (s : State) : Word := Config.busyRead s.stream s.draws

/-- The word a read of r returns (R48, R49). While BUSY a result register, outside its reserved bits (93 U12), or the
field STATUS.SESSION, is a free value: the next draw (log 4). DESIGN CHOICE (log 4): both bits of SESSION are free, so
a read of STATUS while BUSY may show 3, which the field itself never holds (R32, 93 U11); bits 15:0 of RESULT are free,
so a read while BUSY may show a CODE of 1 or 7 to 15 or an INFO that 60_exceptions R201 does not list, which RESULT
itself never holds (93 U10); PAD_OUT_LEN may show 1 to 8 or 73 to 127, which it never holds (R40); and bits 31:29 of
COUNT_HI are free, which are 0 in COUNT itself (R36). R49 and 93 U1 except none of these from "any value". -/
def readValue (s : State) (r : Reg) : Word :=
  if drawsFree s r then
    if r = .status then statusWith s ((freeWord s).extractLsb' 5 2)
    else freeWord s &&& r.fieldMask
  else peek s r

/-- The bus answers the host (log 6). -/
def answer (x : Answer) (s : State) : State := { s with answers := x :: s.answers }

/-- `BusRead(off)` (20_memory R61). A rejected read returns 0 and sets BUSERR (R63); no other read has a side effect
on the engine (R66). -/
def busRead (size : Nat) (off : BitVec 9) (s : State) : State :=
  match accessReg size off with
  | none => answer (.read 0 Config.busErrResponse) { s with busErr := true }
  | some r =>
    answer (.read (readValue s r) .okay) { s with draws := if drawsFree s r then s.draws + 1 else s.draws }

/-- A write to a register (10_state R48). While BUSY, a write to CMD, MSG_IN or LEN is dropped and sets OVR
(70_reset R250); a write to a read-only register is ignored. -/
def writeReg (r : Reg) (v : Word) (s : State) : State :=
  if s.busy && r.lockedWhileBusy then { s with ovr := true }
  else match r with
    | .cmd => accept v s
    | .status => writeStatus v s
    | .irqEn => writeIrqEn v s
    | .lenLo => { s with lenLo := v }
    | .lenHi => { s with lenHi := v }
    | .msgIn i => { s with msgIn := s.msgIn.set i.val v }
    | .id | .result | .bufLen | .countLo | .countHi => s
    | .cvA | .cvB | .cvC | .cvD => s
    | .digest0 | .digest1 | .digest2 | .digest3 => s
    | .padOutLen | .padOut _ => s

/-- `BusWrite(off, v)` (20_memory R61). A rejected write changes no register and sets BUSERR (R63). DESIGN
CHOICE (log 6): a write that is dropped while BUSY (70_reset R250) is answered normally; the spec names the response of
rejected accesses only. -/
def busWrite (size : Nat) (off : BitVec 9) (v : Word) (s : State) : State :=
  match accessReg size off with
  | none => answer (.wrote Config.busErrResponse) { s with busErr := true }
  | some r => answer (.wrote .okay) (writeReg r v s)

/-- One host access, one atomic transition (20_memory R61, R69). -/
def busAccess (a : Access) (s : State) : State :=
  match a with
  | .read size off => busRead size off s
  | .write size off v => busWrite size off v s

end Sys2Proof.Machine
end

