-- ==== Sys2Proof/Machine/Forge.lean ====
section
/-! DEFINITION. The length-extension seed, SEED (43_forge R184). -/

namespace Sys2Proof.Machine

/-- SEED n (R184): a session whose chaining state is the digest in MSG_IN bytes 0..15 and whose count is the length
operand plus its glue padding, the glue padding in PAD_OUT. -/
def execSeed (n : BitVec 7) (s : State) : Host.Outcome State Fault Refusal :=
  match seedLength n s with
  | .error f => .next (completeFail (Instr.seed n).opcode f s)
  | .ok L =>
    .next (completeOk (Instr.seed n).opcode
      (writePadding (paddingFor L)
        (loadSession (parse (msgBytes s 16)) (L + (paddingFor L).length) .active s)))

end Sys2Proof.Machine
end

