-- ==== Sys2Proof/Machine/Oracle.lean ====
section
/-! DEFINITION. The padding oracle, PAD (42_padding R163). -/

namespace Sys2Proof.Machine

/-- PAD (R163): the padding of the length operand, in every session state, touching no session. -/
def execPad (s : State) : Host.Outcome State Fault Refusal :=
  match lenVal s with
  | .error f => .next (completeFail Instr.pad.opcode f s)
  | .ok L => .next (completeOk Instr.pad.opcode (writePadding (paddingFor L) s))

end Sys2Proof.Machine
end

