-- ==== Sys2Proof/Machine/Session.lean ====
section
/-! DEFINITION. The session commands INIT, UPDATE, FINAL, DISCARD (40_session). -/

namespace Sys2Proof.Machine

/-- INIT (R100): a new session at the IV, accepted in every session state. -/
def execInit (s : State) : Host.Outcome State Fault Refusal :=
  .next (completeOk Instr.init.opcode (loadSession Config.iv 0 .active s))

/-- UPDATE n (R103): the checks, then COUNT, then the first n bytes of MSG_IN. -/
def execUpdate (n : BitVec 7) (s : State) : Host.Outcome State Fault Refusal :=
  match updateFailure n s with
  | some f => .next (completeFail (Instr.update n).opcode f s)
  | none =>
    .next (completeOk (Instr.update n).opcode
      (absorbInto (msgBytes s n.toNat) (addCount n.toNat s)))

/-- FINAL (R106): the session check, the padding of COUNT, the digest. COUNT keeps the message length. -/
def execFinal (s : State) : Host.Outcome State Fault Refusal :=
  match sessionFailure s with
  | some f => .next (completeFail Instr.final.opcode f s)
  | none =>
    .next (completeOk Instr.final.opcode (emitDigest (absorbInto (paddingFor s.count.toNat) s)))

/-- DISCARD (R109): no session, chaining state, buffer and count cleared. -/
def execDiscard (s : State) : Host.Outcome State Fault Refusal :=
  .next (completeOk Instr.discard.opcode (loadSession Quad.zero 0 .idle s))

end Sys2Proof.Machine
end

