-- ==== Sys2Proof/Machine/Dispatch.lean ====
section
/-! DEFINITION. One arm per command: which meaning runs it. -/

namespace Sys2Proof.Machine

/-- The execution of a decoded command (60_exceptions R202). -/
def exec (i : Instr) (s : State) : Host.Outcome State Fault Refusal :=
  match i with
  | .init => Sys2Proof.Machine.execInit s
  | .update n => Sys2Proof.Machine.execUpdate n s
  | .final => Sys2Proof.Machine.execFinal s
  | .pad => Sys2Proof.Machine.execPad s
  | .seed n => Sys2Proof.Machine.execSeed n s
  | .discard => Sys2Proof.Machine.execDiscard s

end Sys2Proof.Machine
end

