-- ==== Sys2Proof/Machine/Engine.lean ====
section
/-! DEFINITION. The transitions of one instance (00_scope R12): the engine's turn, a host access, a reset. -/

namespace Sys2Proof.Machine

/-- `execute()` of 60_exceptions R202, in one atomic transition: decode first, then the command. With BUSY = 0 the
engine has nothing to do (R225: every register keeps its value while the engine is idle). -/
def engineTurn (s : State) : Host.Outcome State Fault Refusal :=
  match s.latch with
  | none => .next s
  | some c =>
    match decode c with
    | .illegal why => .next (completeFail (opField c) (.illegalCommand why) s)
    | .command i => exec i s

/-- One transition of the instance. -/
def applyEvent (e : Event) (s : State) : Host.Outcome State Fault Refusal :=
  match e with
  | .access a => .next (busAccess a s)
  | .engine => engineTurn s
  | .reset => .next (resetEngine s)

/-- The next transition: the first of the agenda. With the agenda used up it is the engine's turn: a latched command
is executed (the fairness of 70_reset R253), and with BUSY = 0 the engine waits for a CMD write (R240). Log 1. -/
def nextTransition (s : State) : Host.Outcome State Fault Refusal :=
  match s.agenda with
  | [] => engineTurn s
  | e :: rest => applyEvent e { s with agenda := rest }

/-- The word w (its low nbits bits) in the pending latch, the engine's turn next (log 9). -/
def withLatchedWord (s : State) (nbits w : Nat) : State :=
  { s with latch := some (BitVec.ofNat 32 (w % 2 ^ nbits)), agenda := .engine :: s.agenda }

end Sys2Proof.Machine
end

