-- ==== Sys2Proof/Machine/Step.lean ====
section
/-! DEFINITION. One step of the machine, and how the next command is put in place from outside. -/

namespace Sys2Proof.Machine

/-- One step: one transition of the total order of 20_memory R69. -/
def step (s : State) : Host.Outcome State Fault Refusal := nextTransition s

/-- The engine fetches no instructions (20_memory R72): its next command is the word in the pending latch. -/
def State.withFetchWord (s : State) (nbits w : Nat) : State := withLatchedWord s nbits w

end Sys2Proof.Machine
end

