-- ==== Sys2Proof/Machine/HostProg.lean ====
section
/-! DEFINITION. The host's side: the host assembly of 30_encoding R88 to R90 as pieces of agenda, the forgery
procedure (43_forge R186, R187) and the host's hex codec (43_forge R190). Log 11. -/

namespace Sys2Proof.Machine

/-- `wr r, v` (30_encoding R89). -/
def hostWr (r : Reg) (v : Word) : Event := .access (.write 4 (BitVec.ofNat 9 r.offset) v)

/-- `rd r` (R89). The word read is the next answer. -/
def hostRd (r : Reg) : Event := .access (.read 4 (BitVec.ofNat 9 r.offset))

/-- `cmd i` (R89): the command's one word to CMD. -/
def hostCmd (i : Instr) : Event := hostWr .cmd (encode i)

/-- `wait` (R90) with the engine's turn after `polls` polls that read BUSY = 1: the last read sees BUSY = 0. -/
def hostWait (polls : Nat) : List Event :=
  List.replicate polls (hostRd .status) ++ [.engine, hostRd .status]

/-- `run i` (R90). -/
def hostRun (polls : Nat) (i : Instr) : List Event := hostCmd i :: hostWait polls

/-- `ldlen v` (R90). -/
def hostLdlen (v : DWord) : List Event := [hostWr .lenLo (loWord v), hostWr .lenHi (hiWord v)]

/-- `ldmsg b` (R90), for at most 64 bytes: the words that hold them, bytes past the end 0x00. -/
def hostLdmsg (b : List Byte) : List Event :=
  ((List.finRange 16).take ((b.length + 3) / 4)).map fun i => hostWr (.msgIn i) (wordAt b i.val)

/-- `clr` (R90). -/
def hostClr : Event := hostWr .status 0x0000001E

/-- Successive chunks of 64 bytes, the last may be shorter (R90), with a bound on their number. -/
def chunksOf : Nat → List Byte → List (List Byte)
  | 0, _ => []
  | _ + 1, [] => []
  | k + 1, b :: bs => (b :: bs).take 64 :: chunksOf k ((b :: bs).drop 64)

/-- One turn of `feed` (R90): `ldmsg c; run UPDATE len(c)`. -/
def hostFeedChunk (polls : Nat) (c : List Byte) : List Event :=
  hostLdmsg c ++ hostRun polls (.update (BitVec.ofNat 7 c.length))

/-- `feed b` (R90), each `wait` with the same number of polls. -/
def hostFeed (polls : Nat) (b : List Byte) : List Event :=
  (chunksOf b.length b).flatMap (hostFeedChunk polls)

/-- The reads of the glue padding in the forgery procedure (43_forge R186). -/
def hostReadGlue : List Event :=
  hostRd .padOutLen :: (List.finRange 18).map fun i => hostRd (.padOut i)

/-- The reads of the digest (43_forge R186). -/
def hostReadDigest : List Event :=
  [hostRd .digest0, hostRd .digest1, hostRd .digest2, hostRd .digest3]

/-- `forge(d, L, S)` of 43_forge R186 up to the check of SEED's outcome: the operands, SEED 16, the read of RESULT. -/
def hostForgeSeed (polls : Nat) (d : List Byte) (L : DWord) : List Event :=
  hostLdmsg d ++ hostLdlen L ++ hostRun polls (.seed 16) ++ [hostRd .result]

/-- The rest of `forge` once SEED has succeeded (R186): the glue, the suffix, FINAL, the digest. -/
def hostForgeReplay (polls : Nat) (S : List Byte) : List Event :=
  hostReadGlue ++ hostFeed polls S ++ hostRun polls .final ++ hostReadDigest

/-- "on RESULT.CODE != 0 stop with that error" (R186), with the word the host read from RESULT: the rest of the
procedure, or the word whose CODE and INFO are the error. -/
def hostForgeBranch (polls : Nat) (S : List Byte) (result : Word) : Except Word (List Event) :=
  if result.extractLsb' 0 4 = 0#4 then .ok (hostForgeReplay polls S) else .error result

/-- `forge(d, L, S)` of R186 as the list of its accesses and turns, where the read of RESULT gives the word `result`:
with a CODE other than 0 nothing follows that read. -/
def hostForge (polls : Nat) (d : List Byte) (L : DWord) (S : List Byte) (result : Word) : List Event :=
  hostForgeSeed polls d L ++
    match hostForgeBranch polls S result with
    | .ok rest => rest
    | .error _ => []

/-- The word of the newest answer, 0 where that was no read. -/
def lastRead (s : State) : Word :=
  match s.answers with
  | .read v _ :: _ => v
  | _ => 0

/-- The host at the state after `hostForgeSeed`: it goes on with the replay, or stops with the error (R186). -/
def hostForgeContinue (polls : Nat) (S : List Byte) (s : State) : Except Word State :=
  match hostForgeBranch polls S (lastRead s) with
  | .ok rest => .ok { s with agenda := s.agenda ++ rest }
  | .error e => .error e

/-- The source's ForgeryResult (43_forge R187). -/
structure ForgeryResult where
  originalHash : List Byte
  forgedMessage : List Byte
  forgedHash : List Byte
deriving DecidableEq, Repr

/-- The glue bytes the host reads after SEED: bytes 0 to PAD_OUT_LEN - 1 of PAD_OUT (43_forge R186). -/
def glueBytes (s : State) : List Byte := (List.range s.padOutLen.toNat).map (padByte s)

/-- The host's assembly of the result (43_forge R187), from the state after SEED and the state after FINAL. -/
def forgeryResult (d S : List Byte) (afterSeed afterFinal : State) : ForgeryResult where
  originalHash := d
  forgedMessage := glueBytes afterSeed ++ S
  forgedHash := serialize afterFinal.digest

/-- A lowercase hex character (43_forge R190). -/
def hexChar (n : BitVec 4) : Char :=
  ['0', '1', '2', '3', '4', '5', '6', '7', '8', '9', 'a', 'b', 'c', 'd', 'e', 'f'].getD n.toNat '0'

/-- The host's encoding (43_forge R190): the high nibble first. -/
def hexEncode (p : List Byte) : List Char :=
  p.flatMap fun b => [hexChar (b.extractLsb' 4 4), hexChar (b.extractLsb' 0 4)]

/-- The value of a hex character, upper or lower case (43_forge R190). -/
def hexValue (c : Char) : Option (BitVec 4) :=
  if '0' ≤ c ∧ c ≤ '9' then some (BitVec.ofNat 4 (c.toNat - '0'.toNat))
  else if 'a' ≤ c ∧ c ≤ 'f' then some (BitVec.ofNat 4 (c.toNat - 'a'.toNat + 10))
  else if 'A' ≤ c ∧ c ≤ 'F' then some (BitVec.ofNat 4 (c.toNat - 'A'.toNat + 10))
  else none

/-- Pairs of hex characters to bytes; `none` at an odd end or a character that is no hex digit. -/
def hexPairs : List Char → Option (List Byte)
  | [] => some []
  | [_] => none
  | h :: l :: rest =>
    match hexValue h, hexValue l, hexPairs rest with
    | some x, some y, some p => some ((x ++ y) :: p)
    | _, _, _ => none

/-- The host's decoding before SEED (43_forge R190): exactly 32 hex characters, `none` is the host's MalformedDigest. -/
def hexDecode (t : List Char) : Option (List Byte) :=
  if t.length = 32 then hexPairs t else none

end Sys2Proof.Machine
end

