-- ==== Sys2Proof/Machine/Md4.lean ====
section
/-! DEFINITION. The digest of a whole message (40_session R112), against which the sessions of the engine are
measured. -/

namespace Sys2Proof.Machine

/-- `P[64i .. 64i+63]` (R112). -/
def blockOf (P : List Byte) (i : Nat) : List Byte := (P.drop (64 * i)).take 64

/-- Block after block through `compress` (the loop of R112). -/
def compressBlocks (cv : Quad) (P : List Byte) : Quad :=
  (List.range (P.length / 64)).foldl (fun cv i => compress cv (blockOf P i)) cv

/-- The chaining state after the padded message M, from the IV (R112). -/
def md4Words (M : List Byte) : Quad := compressBlocks Config.iv (M ++ paddingFor M.length)

/-- `MD4(M)` of R112, for `len(M) ≤ MAXLEN`: sixteen bytes. -/
def md4 (M : List Byte) : List Byte := serialize (md4Words M)

end Sys2Proof.Machine
end

