-- ==== Sys2Proof/Machine/System.lean ====
section
/-! DEFINITION. `N_ENGINES` instances side by side (60_exceptions R223, 20_memory R67, R75). Log 7. -/

namespace Sys2Proof.Machine

/-- The instances of a system, instance k at place k. They share nothing (R223). -/
structure System where
  engines : List State
deriving DecidableEq, Repr

/-- Each instance starts at reset (R223). Instance k draws its free read values from sequence k, so that no two
instances share a draw (93 U1); `stream` is the model's own field and no identifier the engine could show (log 4). -/
def System.reset : System := ⟨(List.range Config.nEngines).map fun k => { State.reset with stream := k }⟩

/-- The instance k of the system after an outcome of its own transition. -/
def System.place (S : System) (k : Nat) :
    Host.Outcome State Fault Refusal → Host.Outcome System Fault Refusal
  | .next t => .next ⟨S.engines.set k t⟩
  | .fault r => .fault r
  | .refused r => .refused r

/-- A transition of instance k. Where the system has no instance k there is nothing to act on. -/
def System.deliver (k : Nat) (e : Event) (S : System) : Host.Outcome System Fault Refusal :=
  match S.engines[k]? with
  | none => .next S
  | some s => S.place k (applyEvent e s)

/-- The instance whose window holds the bus address a: `BASE_k ≤ a < BASE_k + 0x200` (R61, R67). -/
def windowOwner (a : Nat) : Option Nat :=
  (List.range Config.nEngines).find? fun k => Config.base k ≤ a && a < Config.base k + 0x200

/-- A read of the host's own `MemRead(a, size)` (20_memory R61): it reaches the instance whose window holds a. -/
def System.memRead (a size : Nat) (S : System) : Host.Outcome System Fault Refusal :=
  match windowOwner a with
  | none => .next S
  | some k => S.deliver k (.access (.read size (BitVec.ofNat 9 (a - Config.base k))))

/-- A write of the host's own `MemWrite(a, size, v)` (20_memory R61). -/
def System.memWrite (a size : Nat) (v : Word) (S : System) : Host.Outcome System Fault Refusal :=
  match windowOwner a with
  | none => .next S
  | some k => S.deliver k (.access (.write size (BitVec.ofNat 9 (a - Config.base k)) v))

/-- The interrupt lines of the system: for each instance its line number and its level (60_exceptions R210). -/
def System.irqLevels (S : System) : List (Nat × Bool) :=
  S.engines.mapIdx fun k s => (Config.irqLine k, s.irq)

end Sys2Proof.Machine
end

