-- ==== Sys2Proof/Safety.lean ====
section
/-! DEFINITION. The terms the statements use: the invariant of an instance (10_state R45), what a command leaves
alone, how a command ends, and what it is to feed a session. -/

namespace Sys2Proof.Machine

/-! ## The invariant -/

/-- R45 item 1. -/
abbrev CountBounded (s : State) : Prop := s.count.toNat ≤ Config.maxLen

/-- BUF_LEN is 0 to 63 (R35). -/
abbrev BufferPartial (s : State) : Prop := s.buf.length < 64

/-- R45 item 2. -/
abbrev ActiveBuffer (s : State) : Prop := s.session = .active → s.buf.length = s.count.toNat % 64

/-- R45 item 3. -/
abbrev IdleClear (s : State) : Prop := s.session = .idle → s.count = 0 ∧ s.buf = [] ∧ s.cv = Quad.zero

/-- R45 item 4. -/
abbrev FinalizedDigest (s : State) : Prop := s.session = .finalized → s.buf = [] ∧ s.cv = s.digest

/-- R45 item 5. -/
abbrev PadTailZero (s : State) : Prop := ∀ k < 72, s.padOutLen.toNat ≤ k → padByte s k = 0

/-- PAD_OUT_LEN is 0, or 9 to 72 (R40). -/
abbrev PadLengthLegal (s : State) : Prop :=
  s.padOutLen = 0 ∨ (9 ≤ s.padOutLen.toNat ∧ s.padOutLen.toNat ≤ 72)

/-- The result codes 1 and 7 to 15 are never produced (60_exceptions R201, 93 U10). -/
abbrev ResultCodeLegal (s : State) : Prop := resultCode s.result ∈ ([0, 2, 3, 4, 5, 6] : List (BitVec 4))

/-- DONE is 0 from the acceptance of a command to its completion (10_state R28). -/
abbrev BusyNotDone (s : State) : Prop := s.busy = true → s.done = false

/-- The invariant of an instance: the five items of 10_state R45, and the ranges of R35, R40, R28 and R201. -/
structure State.Inv (s : State) : Prop where
  countBounded : CountBounded s
  bufferPartial : BufferPartial s
  activeBuffer : ActiveBuffer s
  idleClear : IdleClear s
  finalizedDigest : FinalizedDigest s
  padTailZero : PadTailZero s
  padLengthLegal : PadLengthLegal s
  resultCodeLegal : ResultCodeLegal s
  busyNotDone : BusyNotDone s

/-! ## What stays -/

/-- The session is the same: chaining state, buffer, count, session state. -/
abbrev SameSession (s t : State) : Prop :=
  t.cv = s.cv ∧ t.buf = s.buf ∧ t.count = s.count ∧ t.session = s.session

/-- DIGEST0 to DIGEST3 are the same. -/
abbrev SameDigest (s t : State) : Prop := t.digest = s.digest

/-- PAD_OUT and PAD_OUT_LEN are the same. -/
abbrev SamePadOut (s t : State) : Prop := t.padOut = s.padOut ∧ t.padOutLen = s.padOutLen

/-- What only host accesses write: MSG_IN, LEN, IRQ_EN, OVR, BUSERR, and the model's own agenda, draws, stream,
answers. -/
abbrev SameHostSide (s t : State) : Prop :=
  t.msgIn = s.msgIn ∧ t.lenLo = s.lenLo ∧ t.lenHi = s.lenHi ∧ t.doneIe = s.doneIe ∧ t.errIe = s.errIe
    ∧ t.ovr = s.ovr ∧ t.busErr = s.busErr
    ∧ t.agenda = s.agenda ∧ t.draws = s.draws ∧ t.stream = s.stream ∧ t.answers = s.answers

/-- The engine's own state, without the model's four fields. -/
def State.engineView (s : State) : State := { s with agenda := [], draws := 0, stream := 0, answers := [] }

/-! ## How a command ends -/

/-- The command of opcode op has succeeded (60_exceptions R203): RESULT is OP with CODE 0 and INFO 0, DONE is 1, BUSY
is 0, and ERR is as before. -/
abbrev Succeeded (op : Byte) (s t : State) : Prop :=
  t.result = op ++ 0#8 ∧ t.done = true ∧ t.busy = false ∧ t.err = s.err

/-- The command of opcode op has failed with this code and info, precisely (60_exceptions R204): RESULT, ERR, DONE
and BUSY are written and no other state changes. -/
abbrev FailedWith (op : Byte) (code info : BitVec 4) (s t : State) : Prop :=
  t = { s with result := op ++ info ++ code, err := true, done := true, latch := none }

/-! ## What a word should report, read from the word as a number -/

/-- 30_encoding R85: the INFO of an illegal word, 0 for a word that is none of the four. The rows of the table, the
first that applies (R206). -/
def illegalInfoOf (c : Word) : Nat :=
  if c.toNat / 2 ^ 15 ≠ 0 then 1
  else if c.toNat % 2 ^ 8 = 0 ∨ 7 ≤ c.toNat % 2 ^ 8 then 2
  else if c.toNat % 2 ^ 8 ∈ [1, 3, 4, 6] ∧ c.toNat / 2 ^ 8 % 2 ^ 7 ≠ 0 then 3
  else if c.toNat % 2 ^ 8 = 2 ∧ 64 < c.toNat / 2 ^ 8 % 2 ^ 7 then 4
  else 0

/-- 60_exceptions R206: RESULT.CODE and RESULT.INFO of the first failure that applies to the word c, in the order
of the rule; (0, 0) where none applies. -/
def firstFailureOf (c : Word) (s : State) : Nat × Nat :=
  let op := c.toNat % 2 ^ 8
  let n := c.toNat / 2 ^ 8 % 2 ^ 7
  let L := (lenOperand s).toInt
  if illegalInfoOf c ≠ 0 then (6, illegalInfoOf c)
  else if op ∈ [2, 3] ∧ s.session = .idle then (4, 1)
  else if op ∈ [2, 3] ∧ s.session = .finalized then (4, 2)
  else if op = 5 ∧ n ≠ 16 then (2, 1)
  else if op ∈ [4, 5] ∧ L < 0 then (3, 1)
  else if op ∈ [4, 5] ∧ 2 ^ 61 - 1 < L then (3, 2)
  else if op = 2 ∧ 2 ^ 61 - 1 < s.count.toNat + n then (5, 1)
  else if op = 5 ∧ 2 ^ 61 - 1 < L + (paddingFor L.toNat).length then (5, 2)
  else (0, 0)

/-! ## Feeding a session -/

/-- `Feeds S s t`: from s to t the session is fed exactly the bytes S, by UPDATEs that succeed (40_session R111).
Before each of them, and at the end, the host may do anything that leaves the session alone: load MSG_IN, poll, run
PAD. -/
inductive Feeds : List Byte → State → State → Prop where
  | stop {s t : State} (idle : SameSession s t) : Feeds [] s t
  | update {s u v t : State} {n : BitVec 7} {rest : List Byte} (idle : SameSession s u)
      (fit : (Instr.update n).WellFormed) (run : exec (.update n) u = .next v)
      (ok : resultCode v.result = 0) (more : Feeds rest v t) :
      Feeds (msgBytes u n.toNat ++ rest) s t

/-- `k` steps of one instance. -/
abbrev steps (k : Nat) (s : State) : Host.Outcome State Fault Refusal := Sys2Proof.core.run k s

end Sys2Proof.Machine
end

