-- ==== Sys2Proof/Certificates/Slice0/Obligations.lean ====
section
/-! DEFINITION. The statements about the model, for the provers. Each docstring names the rule of spec/ it formalises
or derives from. -/

open Sys2Proof Sys2Proof.Machine

/-! ## Reset and the invariant -/

/-- 70_reset R240: a reset, in any state, busy or not, leaves every register at its reset value, the session IDLE, no
buffered byte, no pending command and IRQ = 0; the engine then waits for a CMD write. -/
def Obligations.ResetGivesEveryRegisterItsResetValue : Prop :=
  ∀ s : State, ∃ t, applyEvent .reset s = .next t ∧ t.engineView = State.reset
    ∧ (∀ r : Reg, peek t r = if r = .id then 0x4D443401 else 0)
    ∧ t.session = .idle ∧ t.buf = [] ∧ t.latch = none ∧ t.irq = false ∧ engineTurn t = .next t

/-- 10_state R45 and the ranges of R28, R35, R40, R201 hold in the reset state. -/
def Obligations.ResetStateMeetsInvariant : Prop := State.reset.Inv

/-- 10_state R45 (with R28, R35, R40, R201): every step keeps the invariant, whatever the agenda holds. -/
def Obligations.EveryStepKeepsInvariant : Prop :=
  ∀ s t : State, s.Inv → step s = .next t → t.Inv

/-! ## The command word -/

/-- 30_encoding R81 to R84: decoding the word of a well-formed command gives the command back, at every value of N. -/
def Obligations.DecodeOfEncodeIsTheCommand : Prop :=
  ∀ i : Instr, i.WellFormed → decode (encode i) = .command i

/-- 30_encoding R80 to R84: a word that decodes is the one word of its command, and the command is well formed. No
bit of the word is ignored. -/
def Obligations.DecodedWordIsItsEncoding : Prop :=
  ∀ (c : Word) (i : Instr), decode c = .command i → i.WellFormed ∧ encode i = c

/-- 30_encoding R91: the encoding examples, with the other exact words of R83. -/
def Obligations.SpecWordsDecodeAsWritten : Prop :=
  decode 0x00000001 = .command .init ∧ decode 0x00000302 = .command (.update 3)
    ∧ decode 0x00004002 = .command (.update 64) ∧ decode 0x00000002 = .command (.update 0)
    ∧ (∀ s : State, msgBytes s (0 : BitVec 7).toNat = [])
    ∧ decode 0x00000003 = .command .final ∧ decode 0x00000004 = .command .pad
    ∧ decode 0x00001005 = .command (.seed 16) ∧ decode 0x00000F05 = .command (.seed 15)
    ∧ decode 0x00000006 = .command .discard
    ∧ decode 0x00004102 = .illegal .longUpdate ∧ illegalInfo .longUpdate = 4
    ∧ decode 0x00008001 = .illegal .reservedBits ∧ illegalInfo .reservedBits = 1
    ∧ decode 0x00000007 = .illegal .undefinedOp ∧ illegalInfo .undefinedOp = 2
    ∧ decode 0x00000101 = .illegal .strayCount ∧ illegalInfo .strayCount = 3
    ∧ ∀ s : State, ∃ t, exec (.seed 15) s = .next t ∧ FailedWith 0x05 2 1 s t

/-- 30_encoding R85: an illegal word in the latch completes with IllegalCommand (code 6) and the INFO of its row, and
no state but RESULT, DONE, ERR (and BUSY, by completion) changes. A word of no row decodes to a command (R84). -/
def Obligations.IllegalWordFailsWithItsInfo : Prop :=
  ∀ (s : State) (c : Word), s.latch = some c →
    (illegalInfoOf c ≠ 0 →
      ∃ t, engineTurn s = .next t ∧ FailedWith (c.extractLsb' 0 8) 6 (BitVec.ofNat 4 (illegalInfoOf c)) s t)
    ∧ (illegalInfoOf c = 0 → ∃ i, i.WellFormed ∧ decode c = .command i ∧ engineTurn s = exec i s)

/-! ## The step -/

/-- 60_exceptions R202: at the engine's turn, or with the agenda used up, a latched word that decodes to a command
is run: the step is `exec` of the command, with the turn taken off the agenda. -/
def Obligations.StepRunsTheLatchedCommand : Prop :=
  ∀ (s : State) (c : Word) (i : Instr), s.latch = some c → decode c = .command i →
    (∀ rest, s.agenda = .engine :: rest → step s = exec i { s with agenda := rest })
    ∧ (s.agenda = [] → step s = exec i s)

/-- 20_memory R69, 60_exceptions R207: the transitions happen one at a time in the agenda's order. With BUSY = 0 the
engine's turn changes nothing, and a machine with nothing to do waits (70_reset R240). The agenda is the model's own
(log 1). -/
def Obligations.StepTakesTheNextTransition : Prop :=
  ∀ s : State,
    (∀ a rest, s.agenda = .access a :: rest → step s = .next (busAccess a { s with agenda := rest }))
    ∧ (∀ rest, s.agenda = .reset :: rest → step s = .next (resetEngine { s with agenda := rest }))
    ∧ (∀ rest, s.agenda = .engine :: rest → s.busy = false → step s = .next { s with agenda := rest })
    ∧ (s.agenda = [] → s.busy = false → step s = .next s)

/-- 70_reset R253: a command that is pending runs after finitely many transitions, unless a reset comes first. With
no reset on the agenda, the pending command is executed by the step after some number of others that leave it
pending. That the agenda is finite is the model's form of fairness (log 1). -/
def Obligations.PendingCommandEventuallyRuns : Prop :=
  ∀ (s : State) (c : Word), s.latch = some c → Event.reset ∉ s.agenda →
    ∃ k ≤ s.agenda.length, ∃ t u, steps k s = .next t ∧ t.latch = some c
      ∧ step t = .next u ∧ u.busy = false ∧ u.done = true ∧ resultOp u.result = c.extractLsb' 0 8

/-! ## The session commands -/

/-- 40_session R100: INIT, in every session state, loads the IV, empties the buffer, zeroes the count and makes the
session ACTIVE; DIGEST, PAD_OUT, MSG_IN and LEN keep their values; INIT twice in a row equals INIT once. -/
def Obligations.InitStartsASession : Prop :=
  encode .init = 0x00000001 ∧ ∀ s : State, ∃ t, exec .init s = .next t
    ∧ t.cv = ⟨0x67452301, 0xefcdab89, 0x98badcfe, 0x10325476⟩ ∧ t.buf = [] ∧ t.count = 0 ∧ t.session = .active
    ∧ Succeeded 0x01 s t ∧ SameDigest s t ∧ SamePadOut s t ∧ SameHostSide s t
    ∧ exec .init t = .next t

/-- 40_session R103: UPDATE n in an active session whose count stays within MAXLEN adds n to COUNT and absorbs the
first n bytes of MSG_IN: with fewer than 64 bytes in all they are buffered, otherwise exactly one block is compressed
and the rest is buffered. Nothing else changes. -/
def Obligations.UpdateAbsorbsTheFirstBytes : Prop :=
  ∀ (n : BitVec 7) (s : State), n.toNat ≤ 64 → s.session = .active → s.buf.length < 64 →
    s.count.toNat + n.toNat ≤ 2 ^ 61 - 1 →
    ∃ t, exec (.update n) s = .next t
      ∧ t.count.toNat = s.count.toNat + n.toNat ∧ t.session = .active
      ∧ (s.buf.length + n.toNat < 64 → t.cv = s.cv ∧ t.buf = s.buf ++ msgBytes s n.toNat)
      ∧ (64 ≤ s.buf.length + n.toNat →
          t.cv = compress s.cv ((s.buf ++ msgBytes s n.toNat).take 64)
          ∧ t.buf = (s.buf ++ msgBytes s n.toNat).drop 64
          ∧ t.buf.length = s.buf.length + n.toNat - 64)
      ∧ Succeeded 0x02 s t ∧ SameDigest s t ∧ SamePadOut s t ∧ SameHostSide s t

/-- 40_session R103: UPDATE n fails SessionState INFO 1 with no session, INFO 2 after FINAL, and LengthOverflow
INFO 1 where the count would pass MAXLEN, in this order, and changes nothing else. -/
def Obligations.UpdateFailsOutsideItsConditions : Prop :=
  ∀ (n : BitVec 7) (s : State),
    (s.session = .idle → ∃ t, exec (.update n) s = .next t ∧ FailedWith 0x02 4 1 s t)
    ∧ (s.session = .finalized → ∃ t, exec (.update n) s = .next t ∧ FailedWith 0x02 4 2 s t)
    ∧ (s.session = .active → 2 ^ 61 - 1 < s.count.toNat + n.toNat →
        ∃ t, exec (.update n) s = .next t ∧ FailedWith 0x02 5 1 s t)

/-- 40_session R103, corner case: "Input bytes at index n and above are not read". Two states that differ only in
MSG_IN, and agree on its first n bytes, end alike but for MSG_IN. -/
def Obligations.UpdateReadsNoByteBeyondN : Prop :=
  ∀ (n : BitVec 7) (s : State) (m : Vector Word 16) (t : State),
    (∀ k < n.toNat, msgByte s k = msgByte { s with msgIn := m } k) →
    exec (.update n) s = .next t → exec (.update n) { s with msgIn := m } = .next { t with msgIn := m }

/-- 40_session R106: FINAL in an active session absorbs padding_for(COUNT), copies the chaining state to DIGEST and
makes the session FINALIZED; COUNT keeps the message length; nothing else changes. -/
def Obligations.FinalEmitsTheDigest : Prop :=
  ∀ s : State, s.session = .active →
    ∃ t, exec .final s = .next t
      ∧ t.cv = (absorb ⟨s.cv, s.buf⟩ (paddingFor s.count.toNat)).cv
      ∧ t.buf = (absorb ⟨s.cv, s.buf⟩ (paddingFor s.count.toNat)).buf
      ∧ t.digest = t.cv ∧ t.session = .finalized ∧ t.count = s.count
      ∧ Succeeded 0x03 s t ∧ SamePadOut s t ∧ SameHostSide s t

/-- 40_session R106, corner cases: under the invariant FINAL leaves no buffered byte, compresses one block when
COUNT mod 64 ≤ 55 and two when it is 56 or more. -/
def Obligations.FinalCompressesOneOrTwoBlocks : Prop :=
  ∀ s : State, s.Inv → s.session = .active →
    ∃ t, exec .final s = .next t ∧ t.buf = []
      ∧ (s.count.toNat % 64 ≤ 55 → t.digest = compress s.cv (s.buf ++ paddingFor s.count.toNat))
      ∧ (56 ≤ s.count.toNat % 64 →
          t.digest = compress (compress s.cv ((s.buf ++ paddingFor s.count.toNat).take 64))
            ((s.buf ++ paddingFor s.count.toNat).drop 64))

/-- 40_session R106: FINAL fails SessionState INFO 1 with no session and INFO 2 after FINAL, and changes nothing
else; a failed FINAL writes no DIGEST (60_exceptions R205). -/
def Obligations.FinalFailsOutsideASession : Prop :=
  ∀ s : State,
    (s.session = .idle → ∃ t, exec .final s = .next t ∧ FailedWith 0x03 4 1 s t)
    ∧ (s.session = .finalized → ∃ t, exec .final s = .next t ∧ FailedWith 0x03 4 2 s t)

/-- 40_session R109: DISCARD, in every session state, zeroes the chaining state and the count, empties the buffer
and makes the session IDLE; DIGEST, PAD_OUT, MSG_IN, LEN, IRQ_EN and the sticky bits keep their values; a following
UPDATE fails SessionState INFO 1. From IDLE, in the states of the invariant, nothing changes but RESULT and DONE (and
BUSY, by completion). -/
def Obligations.DiscardClearsTheSession : Prop :=
  encode .discard = 0x00000006 ∧ ∀ s : State, ∃ t, exec .discard s = .next t
    ∧ t.cv = ⟨0, 0, 0, 0⟩ ∧ t.buf = [] ∧ t.count = 0 ∧ t.session = .idle
    ∧ Succeeded 0x06 s t ∧ SameDigest s t ∧ SamePadOut s t ∧ SameHostSide s t
    ∧ (∀ n : BitVec 7, ∃ u, exec (.update n) t = .next u ∧ FailedWith 0x02 4 1 t u)
    ∧ (s.Inv → s.session = .idle → t = { s with result := 0x0600, done := true, latch := none })

/-! ## Padding -/

/-- 42_padding R162: the length of the padding, its range, where it is reached, and divisibility by 64. -/
def Obligations.PaddingLengthAndAlignment : Prop :=
  ∀ L : Nat,
    ((paddingFor L).length : Int) = 9 + (55 - (L : Int)) % 64
    ∧ 9 ≤ (paddingFor L).length ∧ (paddingFor L).length ≤ 72
    ∧ ((paddingFor L).length = 9 ↔ L % 64 = 55) ∧ ((paddingFor L).length = 72 ↔ L % 64 = 56)
    ∧ (L + (paddingFor L).length) % 64 = 0

/-- 42_padding R161: the padding is 0x80, then (55 - L) mod 64 zero bytes, the least number that reaches 56 modulo
64, then the bit length 8·L as eight little-endian bytes, exactly, for every L up to MAXLEN. -/
def Obligations.PaddingBytesAreMarkerZerosLength : Prop :=
  ∀ L : Nat, L ≤ 2 ^ 61 - 1 →
    8 * L ≤ 2 ^ 64 - 8 ∧ ∃ z : Nat, (z : Int) = (55 - (L : Int)) % 64 ∧ z < 64
      ∧ (L + 1 + z) % 64 = 56 ∧ (∀ y < z, (L + 1 + y) % 64 ≠ 56)
      ∧ (paddingFor L).length = 1 + z + 8
      ∧ (paddingFor L)[0]? = some 0x80
      ∧ (∀ k < z, (paddingFor L)[1 + k]? = some 0x00)
      ∧ (∀ k < 8, (paddingFor L)[1 + z + k]? = some (BitVec.ofNat 8 (8 * L / 2 ^ (8 * k))))

/-- 42_padding R165: the number of blocks of a padded message. In the second case the last block is 56 zero bytes
and the length field; with L mod 64 = 0 the padding is exactly one block. -/
def Obligations.PaddingAddsOneOrTwoBlocks : Prop :=
  ∀ L : Nat,
    (L % 64 ≤ 55 → (L + (paddingFor L).length) / 64 = L / 64 + 1)
    ∧ (56 ≤ L % 64 → (L + (paddingFor L).length) / 64 = L / 64 + 2
        ∧ ∀ k < 56, (paddingFor L)[(paddingFor L).length - 64 + k]? = some 0x00)
    ∧ (L % 64 = 0 → (paddingFor L).length = 64)

/-- 42_padding R163: PAD with a length operand L from 0 to MAXLEN writes padding_for(L) to PAD_OUT, byte by byte, the
rest 0x00, and its length to PAD_OUT_LEN, in every session state; session, DIGEST and operands stay. -/
def Obligations.PadWritesThePadding : Prop :=
  ∀ s : State, (lenOperand s).toNat ≤ 2 ^ 61 - 1 →
    ∃ t, exec .pad s = .next t
      ∧ (∀ k < 72, padByte t k = (paddingFor (lenOperand s).toNat).getD k 0x00)
      ∧ t.padOutLen.toNat = (paddingFor (lenOperand s).toNat).length
      ∧ Succeeded 0x04 s t ∧ SameSession s t ∧ SameDigest s t ∧ SameHostSide s t

/-- 10_state R52, 42_padding R163: PAD fails InvalidLength INFO 1 where LEN is negative in two's complement, INFO 2
where it is above MAXLEN, and changes nothing else. -/
def Obligations.PadFailsOnAnInvalidLength : Prop :=
  ∀ s : State,
    ((lenOperand s).toInt < 0 → ∃ t, exec .pad s = .next t ∧ FailedWith 0x04 3 1 s t)
    ∧ (2 ^ 61 - 1 < (lenOperand s).toInt → ∃ t, exec .pad s = .next t ∧ FailedWith 0x04 3 2 s t)

/-- 42_padding R163, "pure function": what PAD writes depends on the length operand alone. -/
def Obligations.PadDependsOnLengthOnly : Prop :=
  ∀ s s' t t' : State, s.lenLo = s'.lenLo → s.lenHi = s'.lenHi → (lenOperand s).toNat ≤ 2 ^ 61 - 1 →
    exec .pad s = .next t → exec .pad s' = .next t' →
    t.padOut = t'.padOut ∧ t.padOutLen = t'.padOutLen ∧ t.result = t'.result

/-! ## The forgery seed -/

/-- 43_forge R184: SEED 16 with a length operand L such that L + len(padding_for(L)) ≤ MAXLEN starts, in every
session state, a session whose chaining state is (MSG_IN0, …, MSG_IN3) (R182), whose count is L plus the glue length,
with an empty buffer, and writes the glue padding to PAD_OUT; DIGEST and operands stay. No genuineness is checked
(R189). -/
def Obligations.SeedLoadsDigestAndGlue : Prop :=
  ∀ s : State, (lenOperand s).toNat + (paddingFor (lenOperand s).toNat).length ≤ 2 ^ 61 - 1 →
    ∃ t, exec (.seed 16) s = .next t
      ∧ t.cv = ⟨s.msgIn[0], s.msgIn[1], s.msgIn[2], s.msgIn[3]⟩ ∧ t.buf = []
      ∧ t.count.toNat = (lenOperand s).toNat + (paddingFor (lenOperand s).toNat).length
      ∧ t.count.toNat % 64 = 0 ∧ t.session = .active
      ∧ (∀ k < 72, padByte t k = (paddingFor (lenOperand s).toNat).getD k 0x00)
      ∧ t.padOutLen.toNat = (paddingFor (lenOperand s).toNat).length
      ∧ Succeeded 0x05 s t ∧ SameDigest s t ∧ SameHostSide s t

/-- 43_forge R184: the failures of SEED in their order: MalformedDigest where N ≠ 16, then InvalidLength INFO 1 and
INFO 2, then LengthOverflow INFO 2; nothing else changes. -/
def Obligations.SeedFailsInOrder : Prop :=
  ∀ (n : BitVec 7) (s : State),
    (n.toNat ≠ 16 → ∃ t, exec (.seed n) s = .next t ∧ FailedWith 0x05 2 1 s t)
    ∧ (n.toNat = 16 → (lenOperand s).toInt < 0 → ∃ t, exec (.seed n) s = .next t ∧ FailedWith 0x05 3 1 s t)
    ∧ (n.toNat = 16 → 2 ^ 61 - 1 < (lenOperand s).toInt →
        ∃ t, exec (.seed n) s = .next t ∧ FailedWith 0x05 3 2 s t)
    ∧ (n.toNat = 16 → 0 ≤ (lenOperand s).toInt → (lenOperand s).toInt ≤ 2 ^ 61 - 1 →
        2 ^ 61 - 1 < (lenOperand s).toNat + (paddingFor (lenOperand s).toNat).length →
        ∃ t, exec (.seed n) s = .next t ∧ FailedWith 0x05 5 2 s t)

/-- 43_forge R184, corner case: SEED 16 succeeds exactly for 0 ≤ L ≤ 2^61 - 73, the largest giving the count
2^61 - 64. -/
def Obligations.SeedAcceptsUpToTheLargestLength : Prop :=
  ∀ s t : State, exec (.seed 16) s = .next t →
    (resultCode t.result = 0 ↔ (lenOperand s).toNat ≤ 2 ^ 61 - 73)
    ∧ ((lenOperand s).toNat = 2 ^ 61 - 73 → t.count.toNat = 2 ^ 61 - 64)

/-! ## All commands -/

/-- 60_exceptions R203, R204: the completion of the latched word c, legal or not. With a code other than OK it
writes RESULT (bits 7:0 of c, the info, the code), ERR, DONE and BUSY, and nothing else; with OK, RESULT is bits 7:0 of
c shifted left by 8, DONE is 1, BUSY is 0 and ERR is as before. -/
def Obligations.FailuresArePrecise : Prop :=
  ∀ (s t : State) (c : Word), s.latch = some c → engineTurn s = .next t →
    (resultCode t.result ≠ 0 →
      FailedWith (c.extractLsb' 0 8) (resultCode t.result) (resultInfo t.result) s t)
    ∧ (resultCode t.result = 0 → Succeeded (c.extractLsb' 0 8) s t)

/-- 60_exceptions R201, R206: whatever word is pending, its completion reports the first failure in the order of
R206, or OK, with bits 7:0 of the word as OP. -/
def Obligations.FirstFailureIsReported : Prop :=
  ∀ (s : State) (c : Word), s.latch = some c →
    ∃ t, engineTurn s = .next t
      ∧ t.result = c.extractLsb' 0 8 ++ BitVec.ofNat 4 (firstFailureOf c s).2
          ++ BitVec.ofNat 4 (firstFailureOf c s).1
      ∧ t.done = true ∧ t.busy = false

/-- 10_state R50: the session transitions of the commands that succeed; a failed command changes no session state;
UPDATE and FINAL fail SessionState from IDLE and FINALIZED. -/
def Obligations.SessionTransitionsFollowTheTable : Prop :=
  ∀ (i : Instr) (s t : State), exec i s = .next t →
    (resultCode t.result ≠ 0 → t.session = s.session)
    ∧ (resultCode t.result = 0 → match i with
        | .init => t.session = .active
        | .update _ => s.session = .active ∧ t.session = .active
        | .final => s.session = .active ∧ t.session = .finalized
        | .pad => t.session = s.session
        | .seed _ => t.session = .active
        | .discard => t.session = .idle)
    ∧ (s.session ≠ .active → (i = .final ∨ ∃ n, i = .update n) → resultCode t.result = 4)

/-- 10_state R39, R41 ("No command writes them"), R34, R30, R31: no command changes MSG_IN, LEN, IRQ_EN, OVR or
BUSERR, and a command's completion sets DONE and clears BUSY. Every command completes: none stops the machine
(60_exceptions R205). -/
def Obligations.NoCommandTouchesTheHostSide : Prop :=
  ∀ (i : Instr) (s : State), ∃ t, exec i s = .next t
    ∧ SameHostSide s t ∧ t.done = true ∧ t.busy = false ∧ resultOp t.result = i.opcode
    ∧ (s.err = true → t.err = true)

/-! ## The bus -/

/-- 60_exceptions R200: a write to CMD with BUSY = 0 latches the word, sets BUSY and clears DONE, and nothing else
changes; with BUSY = 1 it is dropped, and the latch, BUSY and DONE keep their values. -/
def Obligations.CmdWriteIsAcceptedWhenIdle : Prop :=
  ∀ (s : State) (c : Word),
    (s.busy = false → ∃ t, applyEvent (.access (.write 4 0x004 c)) s = .next t ∧ t.busy = true
      ∧ t.engineView = { s with latch := some c, done := false }.engineView)
    ∧ (s.busy = true → ∃ t, applyEvent (.access (.write 4 0x004 c)) s = .next t
      ∧ t.engineView = { s with ovr := true }.engineView)

/-- 70_reset R250: while BUSY, a write to CMD, MSG_IN, LEN_LO or LEN_HI is dropped and sets OVR; writes to STATUS and
IRQ_EN are accepted. -/
def Obligations.BusyWritesAreDropped : Prop :=
  ∀ (s : State) (v : Word), s.busy = true →
    (∀ r : Reg, r = .cmd ∨ r = .lenLo ∨ r = .lenHi ∨ (∃ i, r = .msgIn i) →
      ∃ t, applyEvent (hostWr r v) s = .next t ∧ t.engineView = { s with ovr := true }.engineView)
    ∧ (∃ t, applyEvent (hostWr .status v) s = .next t ∧ t.engineView = (writeStatus v s).engineView)
    ∧ ∃ t, applyEvent (hostWr .irqEn v) s = .next t
        ∧ t.engineView = { s with doneIe := v.getLsbD 0, errIe := v.getLsbD 1 }.engineView

/-- 10_state R26: a write to STATUS, whatever BUSY is, clears each W1C bit written with 1, keeps each written with 0,
and ignores the rest; bits 31:7 read 0; everything but the four flags stays. -/
def Obligations.StatusWriteClearsOnes : Prop :=
  ∀ (s : State) (v : Word), ∃ t, applyEvent (hostWr .status v) s = .next t
    ∧ (∀ b : Nat, (peek t .status).getLsbD b
        = ((peek s .status).getLsbD b && !(decide (b ∈ [1, 2, 3, 4]) && v.getLsbD b)))
    ∧ (∀ b ≥ 7, (peek t .status).getLsbD b = false)
    ∧ t = { s with
        done := t.done, err := t.err, ovr := t.ovr, busErr := t.busErr, answers := .wrote .okay :: s.answers }

/-- 10_state R48: a write to a read-only register is ignored without error, in every state. -/
def Obligations.ReadOnlyWritesAreIgnored : Prop :=
  ∀ (s : State) (v : Word) (r : Reg),
    (r.lockedWhileBusy = false ∧ r ≠ .status ∧ r ≠ .irqEn) →
      applyEvent (hostWr r v) s = .next { s with answers := .wrote .okay :: s.answers }

/-- 10_state R39, R41, R34, R48: with BUSY = 0 a read-write register reads the last value written (IRQ_EN its two
bits), and every other register reads as before. -/
def Obligations.ReadWriteRegistersHoldTheirValue : Prop :=
  ∀ (s : State) (v : Word) (r : Reg), s.busy = false →
    (r = .lenLo ∨ r = .lenHi ∨ r = .irqEn ∨ ∃ i, r = .msgIn i) →
    ∃ t, applyEvent (hostWr r v) s = .next t
      ∧ peek t r = (if r = .irqEn then v &&& 3 else v)
      ∧ (∀ q : Reg, q ≠ r → peek t q = peek s q)
      ∧ SameSession s t ∧ t.latch = s.latch

/-- 20_memory R63: an access that is not 4 bytes, not aligned, or to an unmapped offset (10_state R47) changes nothing
but BUSERR; a read of it returns 0; the bus response is the platform's parameter, here one constant, so that two
rejected accesses are answered alike (PRESUMED, log 8); the record of the answer is the model's (log 6). -/
def Obligations.RejectedAccessOnlySetsBusErr : Prop :=
  ∀ (s : State) (size : Nat) (off : BitVec 9) (v : Word),
    (size ≠ 4 ∨ off.toNat % 4 ≠ 0 ∨ (0x04C ≤ off.toNat ∧ off.toNat < 0x080) ∨ 0x108 ≤ off.toNat) →
      applyEvent (.access (.read size off)) s
        = .next { s with busErr := true, answers := .read 0 Config.busErrResponse :: s.answers }
      ∧ applyEvent (.access (.write size off v)) s
        = .next { s with busErr := true, answers := .wrote Config.busErrResponse :: s.answers }

/-- 10_state R46, R47: the offsets of the table of R46, register by register; a 4-byte access at a register's offset
reaches that register; an aligned offset below 0x200 that R47 does not list is the offset of exactly one register, and
no other offset is. -/
def Obligations.EveryMappedOffsetIsOneRegister : Prop :=
  ([Reg.id, .cmd, .status, .result, .irqEn, .bufLen, .countLo, .countHi, .cvA, .cvB, .cvC, .cvD,
      .digest0, .digest1, .digest2, .digest3, .lenLo, .lenHi, .padOutLen].map Reg.offset
    = [0x000, 0x004, 0x008, 0x00C, 0x010, 0x014, 0x018, 0x01C, 0x020, 0x024, 0x028, 0x02C,
      0x030, 0x034, 0x038, 0x03C, 0x040, 0x044, 0x048])
  ∧ (∀ i : Fin 16, (Reg.msgIn i).offset = 0x080 + 4 * i.val)
  ∧ (∀ i : Fin 18, (Reg.padOut i).offset = 0x0C0 + 4 * i.val)
  ∧ (∀ r : Reg, accessReg 4 (BitVec.ofNat 9 r.offset) = some r)
  ∧ ∀ off : Nat, off < 0x200 →
    ((off % 4 = 0 ∧ (off < 0x04C ∨ (0x080 ≤ off ∧ off < 0x108))) →
      ∃ r : Reg, r.offset = off ∧ ∀ q : Reg, q.offset = off → q = r)
    ∧ ((off % 4 ≠ 0 ∨ (0x04C ≤ off ∧ off < 0x080) ∨ 0x108 ≤ off) → ∀ r : Reg, r.offset ≠ off)

/-- 10_state R24 to R26, R32 to R37, R39, R40: what the words of ID, CMD, STATUS, RESULT, IRQ_EN, BUF_LEN, COUNT, CV,
LEN and PAD_OUT_LEN show, the constant, the SESSION codes and the reserved bits among them. BUF_LEN is 0 to 63 and COUNT bits 63:61 are 0 in the
states of the invariant. -/
def Obligations.RegistersShowTheState : Prop :=
  ∀ s : State,
    peek s .id = 0x4D443401 ∧ peek s .cmd = 0
    ∧ ((peek s .status).getLsbD 0 = s.busy ∧ (peek s .status).getLsbD 1 = s.done ∧ (peek s .status).getLsbD 2 = s.err
      ∧ (peek s .status).getLsbD 3 = s.ovr ∧ (peek s .status).getLsbD 4 = s.busErr
      ∧ (peek s .status).extractLsb' 5 2 = (match s.session with
          | .idle => 0#2
          | .active => 1#2
          | .finalized => 2#2)
      ∧ ∀ b ≥ 7, (peek s .status).getLsbD b = false)
    ∧ (peek s .cvA = s.cv.a ∧ peek s .cvB = s.cv.b ∧ peek s .cvC = s.cv.c ∧ peek s .cvD = s.cv.d)
    ∧ (peek s .result).toNat = s.result.toNat
    ∧ (peek s .irqEn).toNat = s.doneIe.toNat + 2 * s.errIe.toNat
    ∧ (peek s .countHi).toNat * 2 ^ 32 + (peek s .countLo).toNat = s.count.toNat
    ∧ (peek s .lenHi).toNat * 2 ^ 32 + (peek s .lenLo).toNat = (lenOperand s).toNat
    ∧ (peek s .padOutLen).toNat = s.padOutLen.toNat
    ∧ (s.Inv → (peek s .bufLen).toNat = s.buf.length ∧ (peek s .bufLen).toNat ≤ 63
        ∧ (peek s .countHi).toNat < 2 ^ 29
        ∧ (s.padOutLen.toNat = 0 ∨ 9 ≤ s.padOutLen.toNat ∧ s.padOutLen.toNat ≤ 72))

/-- 10_state R48, R66: a read, of any size at any offset, changes nothing of the engine but BUSERR, and BUSERR only
where the access is rejected. -/
def Obligations.ReadsHaveNoSideEffect : Prop :=
  ∀ (s : State) (size : Nat) (off : BitVec 9), ∃ t,
    applyEvent (.access (.read size off)) s = .next t
      ∧ t.engineView = { s with busErr := t.busErr }.engineView
      ∧ t.busErr = (s.busErr || (accessReg size off).isNone) ∧ t.agenda = s.agenda

/-- 10_state R49, R251: with BUSY = 0 every register reads its exact value; with BUSY = 1 ID, CMD, IRQ_EN, LEN_LO,
LEN_HI and MSG_IN still do, and STATUS does outside bits 6:5. -/
def Obligations.ExactReads : Prop :=
  ∀ (s : State) (r : Reg), ∃ t v, applyEvent (hostRd r) s = .next t
    ∧ t.answers = .read v .okay :: s.answers
    ∧ (s.busy = false → v = peek s r ∧ t.draws = s.draws)
    ∧ (r = .id ∨ r = .cmd ∨ r = .irqEn ∨ r = .lenLo ∨ r = .lenHi ∨ (∃ i, r = .msgIn i) →
        v = peek s r ∧ t.draws = s.draws)
    ∧ (r = .status → ∀ b : Nat, b ≠ 5 → b ≠ 6 → v.getLsbD b = (peek s .status).getLsbD b)

/-- 10_state R49, 93 U1, U12: with BUSY = 1 a read of a result register returns the next free value, outside the
reserved bits of RESULT (31:16), BUF_LEN (31:6) and PAD_OUT_LEN (31:7), which read as zero, and no two reads share a
draw. Which value that is nothing says (log 4). -/
def Obligations.BusyResultReadsAreFree : Prop :=
  ∀ (s : State) (r : Reg), s.busy = true →
    (r ∈ [.result, .bufLen, .countLo, .countHi, .cvA, .cvB, .cvC, .cvD, .digest0, .digest1, .digest2, .digest3,
        .padOutLen] ∨ ∃ i, r = .padOut i) →
    ∃ t v, applyEvent (hostRd r) s = .next t
      ∧ t = { s with draws := s.draws + 1, answers := .read v .okay :: s.answers }
      ∧ (r = .result → v = 0#16 ++ (Config.busyRead s.stream s.draws).extractLsb' 0 16)
      ∧ (r = .bufLen → v = 0#26 ++ (Config.busyRead s.stream s.draws).extractLsb' 0 6)
      ∧ (r = .padOutLen → v = 0#25 ++ (Config.busyRead s.stream s.draws).extractLsb' 0 7)
      ∧ (r ≠ .result → r ≠ .bufLen → r ≠ .padOutLen → v = Config.busyRead s.stream s.draws)

/-- 20_memory R62, 10_state R38, R41, R42: the byte at window offset 0x030 + k is digest byte k, at 0x080 + k it is
msgbyte(k), at 0x0C0 + k it is padding byte k. -/
def Obligations.WindowBytesAreLittleEndian : Prop :=
  ∀ s : State,
    (∀ k < 16, windowByte s (0x030 + k) = (serialize s.digest)[k]?)
    ∧ (∀ k < 64, windowByte s (0x080 + k) = some (msgByte s k))
    ∧ (∀ k < 72, windowByte s (0x0C0 + k) = some (padByte s k))

/-! ## The interrupt and the flags -/

/-- 60_exceptions R210: IRQ is the level (DONE ∧ DONE_IE) ∨ (ERR ∧ ERR_IE), by the bits the host reads; OVR and
BUSERR do not drive it. -/
def Obligations.IrqIsALevelOfDoneAndErr : Prop :=
  ∀ s : State,
    s.irq = (((peek s .status).getLsbD 1 && (peek s .irqEn).getLsbD 0)
      || ((peek s .status).getLsbD 2 && (peek s .irqEn).getLsbD 1))
    ∧ ∀ o b : Bool, { s with ovr := o, busErr := b }.irq = s.irq

/-- 10_state R29, R30, R31: ERR, OVR and BUSERR are sticky. A step that takes one of them from 1 to 0 is a reset or
an accepted write to STATUS with a 1 in its bit. -/
def Obligations.StickyFlagsFallOnlyByHostOrReset : Prop :=
  ∀ s t : State, step s = .next t →
    (s.err = true → t.err = false → (∃ rest, s.agenda = .reset :: rest)
      ∨ ∃ v rest, s.agenda = .access (.write 4 0x008 v) :: rest ∧ v.getLsbD 2 = true)
    ∧ (s.ovr = true → t.ovr = false → (∃ rest, s.agenda = .reset :: rest)
      ∨ ∃ v rest, s.agenda = .access (.write 4 0x008 v) :: rest ∧ v.getLsbD 3 = true)
    ∧ (s.busErr = true → t.busErr = false → (∃ rest, s.agenda = .reset :: rest)
      ∨ ∃ v rest, s.agenda = .access (.write 4 0x008 v) :: rest ∧ v.getLsbD 4 = true)

/-- 10_state R27, R33: RESULT changes only where a pending command completes and at a reset; BUSY falls only there,
and rises only at an accepted write to CMD. -/
def Obligations.ResultAndBusyChangeOnlyAtTheirEvents : Prop :=
  ∀ s t : State, step s = .next t →
    (t.result ≠ s.result → (∃ rest, s.agenda = .reset :: rest) ∨ (s.busy = true ∧ t.busy = false ∧ t.done = true))
    ∧ (s.busy = true → t.busy = false → (∃ rest, s.agenda = .reset :: rest) ∨ t.done = true)
    ∧ (s.busy = false → t.busy = true →
        ∃ c rest, s.agenda = .access (.write 4 0x004 c) :: rest ∧ t.latch = some c ∧ t.done = false)

/-- 10_state R38, 70_reset R255: DIGEST changes only at a reset and by a FINAL that succeeds, which leaves it equal
to the chaining state. -/
def Obligations.DigestIsWrittenByFinalOnly : Prop :=
  ∀ s t : State, step s = .next t → t.digest ≠ s.digest →
    (∃ rest, s.agenda = .reset :: rest)
    ∨ (s.latch = some 0x00000003 ∧ s.session = .active ∧ t.session = .finalized
        ∧ t.result = 0x0300 ∧ t.digest = t.cv)

/-- 10_state R22: inside a session that goes on, a step changes the chaining state only by compressions: the pending
command is UPDATE or FINAL and the new state is `absorb`'s. Any other change is INIT, SEED, DISCARD or reset. -/
def Obligations.ChainingStateChangesOnlyByItsCommands : Prop :=
  ∀ s t : State, step s = .next t → t.cv ≠ s.cv →
    (∃ rest, s.agenda = .reset :: rest)
    ∨ ∃ c i, s.latch = some c ∧ decode c = .command i ∧ resultCode t.result = 0 ∧ match i with
        | .init => t.cv = Config.iv
        | .update n => s.session = .active ∧ t.cv = (absorb ⟨s.cv, s.buf⟩ (msgBytes s n.toNat)).cv
        | .final => s.session = .active ∧ t.cv = (absorb ⟨s.cv, s.buf⟩ (paddingFor s.count.toNat)).cv
        | .pad => False
        | .seed _ => t.cv = ⟨s.msgIn[0], s.msgIn[1], s.msgIn[2], s.msgIn[3]⟩
        | .discard => t.cv = Quad.zero

/-! ## Compression -/

/-- 41_compression R134: bit i of rotl(x, s) is bit (i - s) mod 32 of x; as a number rotl(x, s) is
((x << s) ∨ (x >> (32 - s))) mod 2^32; only the eight amounts of the rule occur in the schedule. -/
def Obligations.RotationMovesBits : Prop :=
  (∀ (x : Word) (s i : Nat), s < 32 → i < 32 → (rotl x s).getLsbD i = x.getLsbD ((i + 32 - s) % 32))
    ∧ (∀ (x : Word) (s : Nat), 1 ≤ s → s < 32 →
        (rotl x s).toNat = (x.toNat * 2 ^ s ||| x.toNat / 2 ^ (32 - s)) % 2 ^ 32)
    ∧ (∀ x : Word, rotl x 0 = x)
    ∧ ∀ r ∈ schedule, r.s ∈ [3, 5, 7, 9, 11, 13, 15, 19]

/-- 41_compression R135, R136, R137: the round functions bit by bit: a choice, a majority, a parity. -/
def Obligations.RoundFunctionsActBitwise : Prop :=
  ∀ (x y z : Word) (i : Nat), i < 32 →
    (roundF x y z).getLsbD i = (if x.getLsbD i then y.getLsbD i else z.getLsbD i)
    ∧ (roundG x y z).getLsbD i
        = decide (2 ≤ (x.getLsbD i).toNat + (y.getLsbD i).toNat + (z.getLsbD i).toNat)
    ∧ (roundH x y z).getLsbD i
        = decide (((x.getLsbD i).toNat + (y.getLsbD i).toNat + (z.getLsbD i).toNat) % 2 = 1)

/-- 41_compression R142, with the argument order of R140, which is from general knowledge (PRESUMED, 93 G3, log 12):
a step of the schedule writes acc alone, with the rotated sum of acc, the round
function of the three other words in the cyclic order after acc, the block word and the constant. -/
def Obligations.AStepWritesItsAccOnly : Prop :=
  ∀ (x : Vector Word 16) (a b c d : Word) (f : RoundFn) (k : Fin 16) (n : Nat),
    stepWords x ⟨a, b, c, d⟩ ⟨f, .A, k, n⟩ = ⟨rotl (a + f.apply b c d + x[k] + f.constant) n, b, c, d⟩
    ∧ stepWords x ⟨a, b, c, d⟩ ⟨f, .D, k, n⟩ = ⟨a, b, c, rotl (d + f.apply a b c + x[k] + f.constant) n⟩
    ∧ stepWords x ⟨a, b, c, d⟩ ⟨f, .C, k, n⟩ = ⟨a, b, rotl (c + f.apply d a b + x[k] + f.constant) n, d⟩
    ∧ stepWords x ⟨a, b, c, d⟩ ⟨f, .B, k, n⟩ = ⟨a, rotl (b + f.apply c d a + x[k] + f.constant) n, c, d⟩

/-- 41_compression R138, R139: the 48 rows of the schedule: round function, acc, x, y, z, block word, rotation amount
and constant. The columns acc, x, y, z are R140's, the order of x, y, z from general knowledge (PRESUMED, 93 G3,
log 12). -/
def Obligations.ScheduleIsTheTable : Prop :=
  schedule.length = 48 ∧
  ∀ j : Fin 48,
    (schedule[j.val]?).map (fun r => (r.f, (r.acc, r.acc.next, r.acc.next.next, r.acc.next.next.next), r.k.val, r.s,
        r.f.constant)) = some
      (if j.val < 16 then .F else if j.val < 32 then .G else .H,
       if j.val % 4 = 0 then (.A, .B, .C, .D) else if j.val % 4 = 1 then (.D, .A, .B, .C)
       else if j.val % 4 = 2 then (.C, .D, .A, .B) else (.B, .C, .D, .A),
       if j.val < 16 then j.val
       else if j.val < 32 then 4 * (j.val % 4) + (j.val - 16) / 4
       else [0, 8, 4, 12, 2, 10, 6, 14, 1, 9, 5, 13, 3, 11, 7, 15].getD (j.val - 32) 0,
       if j.val < 16 then [3, 7, 11, 19].getD (j.val % 4) 0
       else if j.val < 32 then [3, 5, 9, 13].getD (j.val % 4) 0
       else [3, 9, 11, 15].getD (j.val % 4) 0,
       if j.val < 16 then 0x00000000 else if j.val < 32 then 0x5a827999 else 0x6ed9eba1)

/-- 40_session R113: the digests of the empty message and of "abc", in the hex of the host (43_forge R190). -/
def Obligations.KnownDigests : Prop :=
  hexEncode (md4 []) = "31d6cfe0d16ae931b73c59d7e0c089c0".toList
    ∧ hexEncode (md4 [0x61, 0x62, 0x63]) = "a448017aaf21d8525fc10ae87aa6729d".toList

/-- 41_compression R143, 43_forge R182: serialize gives the sixteen bytes of A, B, C, D, each least significant byte
first; parse reads four little-endian words; they are inverse to each other; parse of the first sixteen input bytes is
MSG_IN0 to MSG_IN3. -/
def Obligations.ParseInvertsSerialize : Prop :=
  (∀ q : Quad, (serialize q).length = 16 ∧ parse (serialize q) = q
      ∧ ∀ b < 4, (serialize q)[b]? = some (q.a.extractLsb' (8 * b) 8)
        ∧ (serialize q)[4 + b]? = some (q.b.extractLsb' (8 * b) 8)
        ∧ (serialize q)[8 + b]? = some (q.c.extractLsb' (8 * b) 8)
        ∧ (serialize q)[12 + b]? = some (q.d.extractLsb' (8 * b) 8))
    ∧ (∀ p : List Byte, p.length = 16 → serialize (parse p) = p
        ∧ (parse p).a = le32 (p.getD 0 0) (p.getD 1 0) (p.getD 2 0) (p.getD 3 0)
        ∧ (parse p).b = le32 (p.getD 4 0) (p.getD 5 0) (p.getD 6 0) (p.getD 7 0)
        ∧ (parse p).c = le32 (p.getD 8 0) (p.getD 9 0) (p.getD 10 0) (p.getD 11 0)
        ∧ (parse p).d = le32 (p.getD 12 0) (p.getD 13 0) (p.getD 14 0) (p.getD 15 0))
    ∧ (∀ s : State, parse (msgBytes s 16) = ⟨s.msgIn[0], s.msgIn[1], s.msgIn[2], s.msgIn[3]⟩)
    ∧ serialize ⟨0xe0cfd631, 0x31e96ad1, 0xd7593cb7, 0xc089c0e0⟩
      = [0x31, 0xd6, 0xcf, 0xe0, 0xd1, 0x6a, 0xe9, 0x31, 0xb7, 0x3c, 0x59, 0xd7, 0xe0, 0xc0, 0x89, 0xc0]

/-! ## The laws of the session and the forgery -/

/-- 40_session R111: chunking does not matter. Any two ways to feed the same bytes S to the same active session
leave the same chaining state, buffer and count; and S can be fed whenever it fits below MAXLEN. -/
def Obligations.ChunkingDoesNotMatter : Prop :=
  (∀ (S : List Byte) (s t t' : State), Feeds S s t → Feeds S s t' → SameSession t t')
    ∧ ∀ (S : List Byte) (s : State), s.session = .active → s.count.toNat + S.length ≤ 2 ^ 61 - 1 →
        ∃ t, Feeds S s t ∧ t.session = .active ∧ t.count.toNat = s.count.toNat + S.length

/-- 40_session R112: INIT, UPDATEs that feed M, and FINAL leave MD4(M), sixteen bytes, in DIGEST, from every state and
whatever else the host does in between that leaves the session alone. Such UPDATEs exist exactly for the M of at most
MAXLEN bytes. -/
def Obligations.SessionComputesMd4 : Prop :=
  ∀ (M : List Byte) (s : State), ∃ s1, exec .init s = .next s1
    ∧ ((∃ t, Feeds M s1 t) ↔ M.length ≤ 2 ^ 61 - 1)
    ∧ (md4 M).length = 16
    ∧ ∀ t, Feeds M s1 t → ∃ u, exec .final t = .next u ∧ resultCode u.result = 0 ∧ serialize u.digest = md4 M

/-- 43_forge R188: for every M of at most 2^61 - 73 bytes and every suffix S that fits, SEED of (MD4(M), len(M)),
UPDATEs that feed S, and FINAL leave MD4(M ‖ padding_for(len(M)) ‖ S) in DIGEST, with the glue padding in PAD_OUT
after SEED, in a run that never sees M. -/
def Obligations.ForgeryIsCorrect : Prop :=
  ∀ (M S : List Byte) (s : State), M.length ≤ 2 ^ 61 - 73 →
    (M ++ paddingFor M.length ++ S).length ≤ 2 ^ 61 - 1 →
    msgBytes s 16 = md4 M → (lenOperand s).toNat = M.length →
    ∃ s1, exec (.seed 16) s = .next s1 ∧ resultCode s1.result = 0 ∧ glueBytes s1 = paddingFor M.length
      ∧ (∃ t, Feeds S s1 t)
      ∧ ∀ t, Feeds S s1 t → ∃ u, exec .final t = .next u ∧ resultCode u.result = 0
        ∧ forgeryResult (md4 M) S s1 u
          = ⟨md4 M, paddingFor M.length ++ S, md4 (M ++ paddingFor M.length ++ S)⟩

/-! ## The host and the system -/

/-- 30_encoding R90: `run i` by the host, from BUSY = 0, with any number of polls before the engine's turn, leaves
the engine as executing the accepted command does, and the last poll reads BUSY = 0. The agenda is the model's form
of the run (log 1, log 11). -/
def Obligations.HostRunCompletesItsCommand : Prop :=
  ∀ (s : State) (i : Instr) (polls : Nat) (rest : List Event), i.WellFormed → s.busy = false →
    s.agenda = hostRun polls i ++ rest →
    ∃ t u, steps (polls + 3) s = .next t ∧ exec i { s with latch := some (encode i), done := false } = .next u
      ∧ t.engineView = u.engineView ∧ t.agenda = rest
      ∧ ∃ v more, t.answers = .read v .okay :: more ∧ v.getLsbD 0 = false

/-- 20_memory R75, 60_exceptions R223: transitions of distinct instances commute, and a transition of one leaves
every other as it was. -/
def Obligations.InstancesCommute : Prop :=
  ∀ (S S1 : System) (k k' : Nat) (e e' : Event), k ≠ k' → S.deliver k e = .next S1 →
    (∀ j, j ≠ k → S1.engines[j]? = S.engines[j]?)
    ∧ ∃ S2 T, S.deliver k' e' = .next S2 ∧ S1.deliver k' e' = .next T ∧ S2.deliver k e = .next T

/-- 43_forge R190: the host's hex codec. A byte is two lowercase characters, the high nibble first; decoding the
encoding of sixteen bytes, in either case of the letters, gives them back; a text decodes exactly when it has 32
characters, each a hex digit in either case, and is the host's MalformedDigest otherwise. Host side (log 11). -/
def Obligations.HexCodecRoundTrip : Prop :=
  (∀ b : Byte, hexEncode [b] = [("0123456789abcdef".toList).getD (b.toNat / 16) '?',
      ("0123456789abcdef".toList).getD (b.toNat % 16) '?'])
    ∧ (∀ p : List Byte, p.length = 16 → hexDecode (hexEncode p) = some p
        ∧ hexDecode ((hexEncode p).map Char.toUpper) = some p)
    ∧ ∀ t : List Char, (hexDecode t).isSome = true
        ↔ t.length = 32 ∧ ∀ c ∈ t, c ∈ "0123456789abcdefABCDEF".toList
end

