-- ==== Sys2Proof/Laws/Absorb.lean ====
section
/-! SUPPORT. What `absorb` does with any number of bytes (40_session R102), each fact once. -/

namespace Sys2Proof.Machine

@[simp] theorem absorb_nil (p : Sponge) : absorb p [] = p := rfl

/-- `absorb(x ‖ y) = absorb(x); absorb(y)` (40_session R111). -/
theorem absorb_append (p : Sponge) (x y : List Byte) : absorb p (x ++ y) = absorb (absorb p x) y := by
  simp [absorb]

theorem absorb_cons (p : Sponge) (b : Byte) (d : List Byte) : absorb p (b :: d) = absorb (absorbByte p b) d := rfl

/-- Fewer than 64 bytes in all: they are buffered and nothing is compressed. -/
theorem absorb_short (p : Sponge) (d : List Byte) (h : p.buf.length + d.length < 64) :
    absorb p d = ⟨p.cv, p.buf ++ d⟩ := by
  induction d generalizing p with
  | nil => simp
  | cons b d ih =>
    simp only [List.length_cons] at h
    have hb : absorbByte p b = ⟨p.cv, p.buf ++ [b]⟩ := by
      unfold absorbByte
      rw [if_neg (by simp; omega)]
    rw [absorb_cons, hb, ih _ (by simp; omega)]
    simp

/-- The bytes that complete the block: it is compressed and the buffer is empty. -/
theorem absorb_fill (p : Sponge) (d : List Byte) (h : p.buf.length + d.length = 64) (hb : p.buf.length < 64) :
    absorb p d = ⟨compress p.cv (p.buf ++ d), []⟩ := by
  induction d generalizing p with
  | nil => simp at h; omega
  | cons b d ih =>
    rw [absorb_cons]
    simp only [List.length_cons] at h
    by_cases hd : d = []
    · subst hd
      simp only [absorb_nil, absorbByte]
      rw [if_pos (by simpa using h)]
    · have hpos : 0 < d.length := List.length_pos_iff.mpr hd
      have step : absorbByte p b = ⟨p.cv, p.buf ++ [b]⟩ := by
        unfold absorbByte
        rw [if_neg (by simp; omega)]
      rw [step, ih _ (by simp; omega) (by simp; omega)]
      simp

/-- Enough bytes for a block: one block is compressed and the rest is absorbed from an empty buffer. -/
theorem absorb_block (p : Sponge) (d : List Byte) (hb : p.buf.length < 64) (h : 64 ≤ p.buf.length + d.length) :
    absorb p d = absorb ⟨compress p.cv ((p.buf ++ d).take 64), []⟩ (d.drop (64 - p.buf.length)) := by
  conv => lhs; rw [← List.take_append_drop (64 - p.buf.length) d]
  rw [absorb_append, absorb_fill _ _ (by simp; omega) hb, List.take_append]
  simp [List.take_of_length_le (Nat.le_of_lt hb)]

/-- The buffer stays shorter than a block. -/
theorem absorb_buf_lt (p : Sponge) (d : List Byte) (hb : p.buf.length < 64) : (absorb p d).buf.length < 64 := by
  induction d generalizing p with
  | nil => simpa
  | cons b d ih =>
    rw [absorb_cons]
    apply ih
    unfold absorbByte
    split <;> simp_all
    omega

/-- The length of the buffer, modulo the block size. -/
theorem absorb_buf_length (p : Sponge) (d : List Byte) (hb : p.buf.length < 64) :
    (absorb p d).buf.length = (p.buf.length + d.length) % 64 := by
  induction d generalizing p with
  | nil => simp [Nat.mod_eq_of_lt hb]
  | cons b d ih =>
    rw [absorb_cons, ih]
    · unfold absorbByte
      split <;> simp_all <;> omega
    · unfold absorbByte
      split <;> simp_all
      omega

/-- A fold over a list depends on the function at its elements alone. -/
theorem foldl_congr {α β : Type} {f g : β → α → β} {l : List α} (q : β) (h : ∀ q, ∀ i ∈ l, f q i = g q i) :
    l.foldl f q = l.foldl g q := by
  induction l generalizing q with
  | nil => simp
  | cons i l ih =>
    rw [List.foldl_cons, List.foldl_cons, h q i List.mem_cons_self]
    exact ih _ fun q k hk => h q k (List.mem_cons_of_mem _ hk)

/-- Blocks through `compress` one more at the end. -/
theorem compressBlocks_snoc (cv : Quad) (P b : List Byte) (hP : P.length % 64 = 0) (hb : b.length = 64) :
    compressBlocks cv (P ++ b) = compress (compressBlocks cv P) b := by
  unfold compressBlocks
  rw [show (P ++ b).length / 64 = P.length / 64 + 1 by simp; omega, List.range_succ, List.foldl_append]
  simp only [List.foldl_cons, List.foldl_nil]
  have last : blockOf (P ++ b) (P.length / 64) = b := by
    rw [blockOf, show 64 * (P.length / 64) = P.length by omega, List.drop_left, ← hb, List.take_length]
  have earlier : ∀ i ∈ List.range (P.length / 64), blockOf (P ++ b) i = blockOf P i := by
    intro i hi
    rw [List.mem_range] at hi
    rw [blockOf, blockOf, List.drop_append_of_le_length (by omega), List.take_append_of_le_length (by simp; omega)]
  rw [last, foldl_congr cv (fun q i hi => by rw [earlier i hi])]

/-- From the IV, or any chaining state, and an empty buffer: `absorb` compresses the whole blocks in order and
buffers the rest. -/
theorem absorb_empty (cv : Quad) (d : List Byte) :
    absorb ⟨cv, []⟩ d = ⟨compressBlocks cv (d.take (64 * (d.length / 64))), d.drop (64 * (d.length / 64))⟩ := by
  induction hn : d.length / 64 generalizing cv d with
  | zero =>
    rw [absorb_short _ _ (by simp; omega)]
    simp [compressBlocks]
  | succ n ih =>
    have split : d = d.take (64 * n) ++ d.drop (64 * n) := (List.take_append_drop _ _).symm
    have hlen : (d.take (64 * n)).length = 64 * n := by simp; omega
    have first : absorb ⟨cv, []⟩ (d.take (64 * n)) = ⟨compressBlocks cv (d.take (64 * n)), []⟩ := by
      rw [ih cv (d.take (64 * n)) (by omega), List.take_take]
      simp [List.drop_eq_nil_of_le]
    conv => lhs; rw [split]
    rw [absorb_append, first, absorb_block _ _ (by simp) (by simp; omega)]
    rw [absorb_short _ _ (by simp; omega)]
    have more : d.take (64 * (n + 1)) = d.take (64 * n) ++ (d.drop (64 * n)).take 64 := by
      rw [← List.take_add]; congr 1
    rw [more, compressBlocks_snoc _ _ _ (by omega) (by simp; omega)]
    simp only [List.nil_append, List.length_nil, Nat.sub_zero, List.drop_drop]
    congr 2

end Sys2Proof.Machine
end

