-- ==== Sys2Proof/Laws/Bits.lean ====
section
/-! SUPPORT. Bytes and words: reading a byte back from a word put together of bytes, and the reverse. -/

namespace Sys2Proof.Machine

/-- Bit i of a word put together of four bytes. -/
theorem getLsbD_le32 (b0 b1 b2 b3 : Byte) (i : Nat) (hi : i < 32) :
    (le32 b0 b1 b2 b3).getLsbD i
      = if i < 8 then b0.getLsbD i else if i < 16 then b1.getLsbD (i - 8)
        else if i < 24 then b2.getLsbD (i - 16) else b3.getLsbD (i - 24) := by
  simp only [le32, BitVec.getLsbD_append]
  split
  · rfl
  · by_cases h : i < 16
    · simp only [h, if_true, show i - 8 < 8 by omega]
    · by_cases h' : i < 24
      · simp only [h, h', if_true, if_false, show ¬ i - 8 < 8 by omega, show i - 8 - 8 = i - 16 by omega,
          show i - 16 < 8 by omega]
      · simp only [h, h', if_false, show ¬ i - 8 < 8 by omega, show i - 8 - 8 = i - 16 by omega,
          show ¬ i - 16 < 8 by omega, show i - 16 - 8 = i - 24 by omega]

/-- Byte k of a word put together of four bytes. -/
theorem byteOf_le32 (b0 b1 b2 b3 : Byte) (k : Nat) (hk : k < 4) :
    byteOf (le32 b0 b1 b2 b3) k = [b0, b1, b2, b3].getD k 0 := by
  apply BitVec.eq_of_getLsbD_eq
  intro i hi
  simp only [byteOf, BitVec.getLsbD_extractLsb', hi, decide_true, Bool.true_and]
  rw [getLsbD_le32 _ _ _ _ _ (by omega)]
  obtain rfl | rfl | rfl | rfl : k = 0 ∨ k = 1 ∨ k = 2 ∨ k = 3 := by omega
  · simp [hi]
  · simp [show ¬ 8 + i < 8 by omega, show 8 + i < 16 by omega]
  · simp [show ¬ 16 + i < 8 by omega, show ¬ 16 + i < 16 by omega, show 16 + i < 24 by omega]
  · simp [show ¬ 24 + i < 8 by omega, show ¬ 24 + i < 16 by omega, show ¬ 24 + i < 24 by omega]

/-- A word is its four bytes. -/
theorem le32_byteOf (w : Word) : le32 (byteOf w 0) (byteOf w 1) (byteOf w 2) (byteOf w 3) = w := by
  apply BitVec.eq_of_getLsbD_eq
  intro i hi
  rw [getLsbD_le32 _ _ _ _ _ hi]
  simp only [byteOf, BitVec.getLsbD_extractLsb']
  split
  · simp [*]
  · split
    · simp [show i - 8 < 8 by omega, show 8 + (i - 8) = i by omega]
    · split
      · simp [show i - 16 < 8 by omega, show 16 + (i - 16) = i by omega]
      · simp [show i - 24 < 8 by omega, show 24 + (i - 24) = i by omega]

/-- Byte b of word i of a byte sequence is its byte 4i + b. -/
theorem byteOf_wordAt (p : List Byte) (i b : Nat) (hb : b < 4) :
    byteOf (wordAt p i) b = p.getD (4 * i + b) 0 := by
  rw [wordAt, byteOf_le32 _ _ _ _ _ hb]
  obtain rfl | rfl | rfl | rfl : b = 0 ∨ b = 1 ∨ b = 2 ∨ b = 3 := by omega
  all_goals rfl

@[simp] theorem length_le32bytes (w : Word) : (le32bytes w).length = 4 := rfl

@[simp] theorem length_le64bytes (v : DWord) : (le64bytes v).length = 8 := rfl

@[simp] theorem length_serialize (q : Quad) : (serialize q).length = 16 := rfl

end Sys2Proof.Machine
end

