-- ==== Sys2Proof/Laws/State.lean ====
section
/-! SUPPORT. One lemma per field per shared update of the state: what the update leaves in the field. -/

namespace Sys2Proof.Machine

variable (s : State)

/-! ### accept -/

@[simp] theorem accept_cv (c : Word) : (accept c s).cv = s.cv := rfl
@[simp] theorem accept_buf (c : Word) : (accept c s).buf = s.buf := rfl
@[simp] theorem accept_count (c : Word) : (accept c s).count = s.count := rfl
@[simp] theorem accept_session (c : Word) : (accept c s).session = s.session := rfl
@[simp] theorem accept_digest (c : Word) : (accept c s).digest = s.digest := rfl
@[simp] theorem accept_msgIn (c : Word) : (accept c s).msgIn = s.msgIn := rfl
@[simp] theorem accept_lenLo (c : Word) : (accept c s).lenLo = s.lenLo := rfl
@[simp] theorem accept_lenHi (c : Word) : (accept c s).lenHi = s.lenHi := rfl
@[simp] theorem accept_padOut (c : Word) : (accept c s).padOut = s.padOut := rfl
@[simp] theorem accept_padOutLen (c : Word) : (accept c s).padOutLen = s.padOutLen := rfl
@[simp] theorem accept_done (c : Word) : (accept c s).done = false := rfl
@[simp] theorem accept_err (c : Word) : (accept c s).err = s.err := rfl
@[simp] theorem accept_ovr (c : Word) : (accept c s).ovr = s.ovr := rfl
@[simp] theorem accept_busErr (c : Word) : (accept c s).busErr = s.busErr := rfl
@[simp] theorem accept_result (c : Word) : (accept c s).result = s.result := rfl
@[simp] theorem accept_doneIe (c : Word) : (accept c s).doneIe = s.doneIe := rfl
@[simp] theorem accept_errIe (c : Word) : (accept c s).errIe = s.errIe := rfl
@[simp] theorem accept_latch (c : Word) : (accept c s).latch = some c := rfl
@[simp] theorem accept_agenda (c : Word) : (accept c s).agenda = s.agenda := rfl
@[simp] theorem accept_draws (c : Word) : (accept c s).draws = s.draws := rfl
@[simp] theorem accept_stream (c : Word) : (accept c s).stream = s.stream := rfl
@[simp] theorem accept_answers (c : Word) : (accept c s).answers = s.answers := rfl
@[simp] theorem accept_busy (c : Word) : (accept c s).busy = true := rfl

/-! ### completeOk -/

@[simp] theorem completeOk_cv (op : Byte) : (completeOk op s).cv = s.cv := rfl
@[simp] theorem completeOk_buf (op : Byte) : (completeOk op s).buf = s.buf := rfl
@[simp] theorem completeOk_count (op : Byte) : (completeOk op s).count = s.count := rfl
@[simp] theorem completeOk_session (op : Byte) : (completeOk op s).session = s.session := rfl
@[simp] theorem completeOk_digest (op : Byte) : (completeOk op s).digest = s.digest := rfl
@[simp] theorem completeOk_msgIn (op : Byte) : (completeOk op s).msgIn = s.msgIn := rfl
@[simp] theorem completeOk_lenLo (op : Byte) : (completeOk op s).lenLo = s.lenLo := rfl
@[simp] theorem completeOk_lenHi (op : Byte) : (completeOk op s).lenHi = s.lenHi := rfl
@[simp] theorem completeOk_padOut (op : Byte) : (completeOk op s).padOut = s.padOut := rfl
@[simp] theorem completeOk_padOutLen (op : Byte) : (completeOk op s).padOutLen = s.padOutLen := rfl
@[simp] theorem completeOk_done (op : Byte) : (completeOk op s).done = true := rfl
@[simp] theorem completeOk_err (op : Byte) : (completeOk op s).err = s.err := rfl
@[simp] theorem completeOk_ovr (op : Byte) : (completeOk op s).ovr = s.ovr := rfl
@[simp] theorem completeOk_busErr (op : Byte) : (completeOk op s).busErr = s.busErr := rfl
@[simp] theorem completeOk_result (op : Byte) : (completeOk op s).result = okResult op := rfl
@[simp] theorem completeOk_doneIe (op : Byte) : (completeOk op s).doneIe = s.doneIe := rfl
@[simp] theorem completeOk_errIe (op : Byte) : (completeOk op s).errIe = s.errIe := rfl
@[simp] theorem completeOk_latch (op : Byte) : (completeOk op s).latch = none := rfl
@[simp] theorem completeOk_agenda (op : Byte) : (completeOk op s).agenda = s.agenda := rfl
@[simp] theorem completeOk_draws (op : Byte) : (completeOk op s).draws = s.draws := rfl
@[simp] theorem completeOk_stream (op : Byte) : (completeOk op s).stream = s.stream := rfl
@[simp] theorem completeOk_answers (op : Byte) : (completeOk op s).answers = s.answers := rfl
@[simp] theorem completeOk_busy (op : Byte) : (completeOk op s).busy = false := rfl

/-! ### completeFail -/

@[simp] theorem completeFail_cv (op : Byte) (f : Failure) : (completeFail op f s).cv = s.cv := rfl
@[simp] theorem completeFail_buf (op : Byte) (f : Failure) : (completeFail op f s).buf = s.buf := rfl
@[simp] theorem completeFail_count (op : Byte) (f : Failure) : (completeFail op f s).count = s.count := rfl
@[simp] theorem completeFail_session (op : Byte) (f : Failure) : (completeFail op f s).session = s.session := rfl
@[simp] theorem completeFail_digest (op : Byte) (f : Failure) : (completeFail op f s).digest = s.digest := rfl
@[simp] theorem completeFail_msgIn (op : Byte) (f : Failure) : (completeFail op f s).msgIn = s.msgIn := rfl
@[simp] theorem completeFail_lenLo (op : Byte) (f : Failure) : (completeFail op f s).lenLo = s.lenLo := rfl
@[simp] theorem completeFail_lenHi (op : Byte) (f : Failure) : (completeFail op f s).lenHi = s.lenHi := rfl
@[simp] theorem completeFail_padOut (op : Byte) (f : Failure) : (completeFail op f s).padOut = s.padOut := rfl
@[simp] theorem completeFail_padOutLen (op : Byte) (f : Failure) : (completeFail op f s).padOutLen = s.padOutLen := rfl
@[simp] theorem completeFail_done (op : Byte) (f : Failure) : (completeFail op f s).done = true := rfl
@[simp] theorem completeFail_err (op : Byte) (f : Failure) : (completeFail op f s).err = true := rfl
@[simp] theorem completeFail_ovr (op : Byte) (f : Failure) : (completeFail op f s).ovr = s.ovr := rfl
@[simp] theorem completeFail_busErr (op : Byte) (f : Failure) : (completeFail op f s).busErr = s.busErr := rfl
@[simp] theorem completeFail_result (op : Byte) (f : Failure) : (completeFail op f s).result = failResult op f := rfl
@[simp] theorem completeFail_doneIe (op : Byte) (f : Failure) : (completeFail op f s).doneIe = s.doneIe := rfl
@[simp] theorem completeFail_errIe (op : Byte) (f : Failure) : (completeFail op f s).errIe = s.errIe := rfl
@[simp] theorem completeFail_latch (op : Byte) (f : Failure) : (completeFail op f s).latch = none := rfl
@[simp] theorem completeFail_agenda (op : Byte) (f : Failure) : (completeFail op f s).agenda = s.agenda := rfl
@[simp] theorem completeFail_draws (op : Byte) (f : Failure) : (completeFail op f s).draws = s.draws := rfl
@[simp] theorem completeFail_stream (op : Byte) (f : Failure) : (completeFail op f s).stream = s.stream := rfl
@[simp] theorem completeFail_answers (op : Byte) (f : Failure) : (completeFail op f s).answers = s.answers := rfl
@[simp] theorem completeFail_busy (op : Byte) (f : Failure) : (completeFail op f s).busy = false := rfl

/-! ### absorbInto -/

@[simp] theorem absorbInto_cv (d : List Byte) : (absorbInto d s).cv = (absorb ⟨s.cv, s.buf⟩ d).cv := rfl
@[simp] theorem absorbInto_buf (d : List Byte) : (absorbInto d s).buf = (absorb ⟨s.cv, s.buf⟩ d).buf := rfl
@[simp] theorem absorbInto_count (d : List Byte) : (absorbInto d s).count = s.count := rfl
@[simp] theorem absorbInto_session (d : List Byte) : (absorbInto d s).session = s.session := rfl
@[simp] theorem absorbInto_digest (d : List Byte) : (absorbInto d s).digest = s.digest := rfl
@[simp] theorem absorbInto_msgIn (d : List Byte) : (absorbInto d s).msgIn = s.msgIn := rfl
@[simp] theorem absorbInto_lenLo (d : List Byte) : (absorbInto d s).lenLo = s.lenLo := rfl
@[simp] theorem absorbInto_lenHi (d : List Byte) : (absorbInto d s).lenHi = s.lenHi := rfl
@[simp] theorem absorbInto_padOut (d : List Byte) : (absorbInto d s).padOut = s.padOut := rfl
@[simp] theorem absorbInto_padOutLen (d : List Byte) : (absorbInto d s).padOutLen = s.padOutLen := rfl
@[simp] theorem absorbInto_done (d : List Byte) : (absorbInto d s).done = s.done := rfl
@[simp] theorem absorbInto_err (d : List Byte) : (absorbInto d s).err = s.err := rfl
@[simp] theorem absorbInto_ovr (d : List Byte) : (absorbInto d s).ovr = s.ovr := rfl
@[simp] theorem absorbInto_busErr (d : List Byte) : (absorbInto d s).busErr = s.busErr := rfl
@[simp] theorem absorbInto_result (d : List Byte) : (absorbInto d s).result = s.result := rfl
@[simp] theorem absorbInto_doneIe (d : List Byte) : (absorbInto d s).doneIe = s.doneIe := rfl
@[simp] theorem absorbInto_errIe (d : List Byte) : (absorbInto d s).errIe = s.errIe := rfl
@[simp] theorem absorbInto_latch (d : List Byte) : (absorbInto d s).latch = s.latch := rfl
@[simp] theorem absorbInto_agenda (d : List Byte) : (absorbInto d s).agenda = s.agenda := rfl
@[simp] theorem absorbInto_draws (d : List Byte) : (absorbInto d s).draws = s.draws := rfl
@[simp] theorem absorbInto_stream (d : List Byte) : (absorbInto d s).stream = s.stream := rfl
@[simp] theorem absorbInto_answers (d : List Byte) : (absorbInto d s).answers = s.answers := rfl
@[simp] theorem absorbInto_busy (d : List Byte) : (absorbInto d s).busy = s.busy := rfl

/-! ### loadSession -/

@[simp] theorem loadSession_cv (q : Quad) (n : Nat) (m : Session) : (loadSession q n m s).cv = q := rfl
@[simp] theorem loadSession_buf (q : Quad) (n : Nat) (m : Session) : (loadSession q n m s).buf = [] := rfl
@[simp] theorem loadSession_count (q : Quad) (n : Nat) (m : Session) : (loadSession q n m s).count = BitVec.ofNat 64 n := rfl
@[simp] theorem loadSession_session (q : Quad) (n : Nat) (m : Session) : (loadSession q n m s).session = m := rfl
@[simp] theorem loadSession_digest (q : Quad) (n : Nat) (m : Session) : (loadSession q n m s).digest = s.digest := rfl
@[simp] theorem loadSession_msgIn (q : Quad) (n : Nat) (m : Session) : (loadSession q n m s).msgIn = s.msgIn := rfl
@[simp] theorem loadSession_lenLo (q : Quad) (n : Nat) (m : Session) : (loadSession q n m s).lenLo = s.lenLo := rfl
@[simp] theorem loadSession_lenHi (q : Quad) (n : Nat) (m : Session) : (loadSession q n m s).lenHi = s.lenHi := rfl
@[simp] theorem loadSession_padOut (q : Quad) (n : Nat) (m : Session) : (loadSession q n m s).padOut = s.padOut := rfl
@[simp] theorem loadSession_padOutLen (q : Quad) (n : Nat) (m : Session) : (loadSession q n m s).padOutLen = s.padOutLen := rfl
@[simp] theorem loadSession_done (q : Quad) (n : Nat) (m : Session) : (loadSession q n m s).done = s.done := rfl
@[simp] theorem loadSession_err (q : Quad) (n : Nat) (m : Session) : (loadSession q n m s).err = s.err := rfl
@[simp] theorem loadSession_ovr (q : Quad) (n : Nat) (m : Session) : (loadSession q n m s).ovr = s.ovr := rfl
@[simp] theorem loadSession_busErr (q : Quad) (n : Nat) (m : Session) : (loadSession q n m s).busErr = s.busErr := rfl
@[simp] theorem loadSession_result (q : Quad) (n : Nat) (m : Session) : (loadSession q n m s).result = s.result := rfl
@[simp] theorem loadSession_doneIe (q : Quad) (n : Nat) (m : Session) : (loadSession q n m s).doneIe = s.doneIe := rfl
@[simp] theorem loadSession_errIe (q : Quad) (n : Nat) (m : Session) : (loadSession q n m s).errIe = s.errIe := rfl
@[simp] theorem loadSession_latch (q : Quad) (n : Nat) (m : Session) : (loadSession q n m s).latch = s.latch := rfl
@[simp] theorem loadSession_agenda (q : Quad) (n : Nat) (m : Session) : (loadSession q n m s).agenda = s.agenda := rfl
@[simp] theorem loadSession_draws (q : Quad) (n : Nat) (m : Session) : (loadSession q n m s).draws = s.draws := rfl
@[simp] theorem loadSession_stream (q : Quad) (n : Nat) (m : Session) : (loadSession q n m s).stream = s.stream := rfl
@[simp] theorem loadSession_answers (q : Quad) (n : Nat) (m : Session) : (loadSession q n m s).answers = s.answers := rfl
@[simp] theorem loadSession_busy (q : Quad) (n : Nat) (m : Session) : (loadSession q n m s).busy = s.busy := rfl

/-! ### addCount -/

@[simp] theorem addCount_cv (n : Nat) : (addCount n s).cv = s.cv := rfl
@[simp] theorem addCount_buf (n : Nat) : (addCount n s).buf = s.buf := rfl
@[simp] theorem addCount_count (n : Nat) : (addCount n s).count = BitVec.ofNat 64 (s.count.toNat + n) := rfl
@[simp] theorem addCount_session (n : Nat) : (addCount n s).session = s.session := rfl
@[simp] theorem addCount_digest (n : Nat) : (addCount n s).digest = s.digest := rfl
@[simp] theorem addCount_msgIn (n : Nat) : (addCount n s).msgIn = s.msgIn := rfl
@[simp] theorem addCount_lenLo (n : Nat) : (addCount n s).lenLo = s.lenLo := rfl
@[simp] theorem addCount_lenHi (n : Nat) : (addCount n s).lenHi = s.lenHi := rfl
@[simp] theorem addCount_padOut (n : Nat) : (addCount n s).padOut = s.padOut := rfl
@[simp] theorem addCount_padOutLen (n : Nat) : (addCount n s).padOutLen = s.padOutLen := rfl
@[simp] theorem addCount_done (n : Nat) : (addCount n s).done = s.done := rfl
@[simp] theorem addCount_err (n : Nat) : (addCount n s).err = s.err := rfl
@[simp] theorem addCount_ovr (n : Nat) : (addCount n s).ovr = s.ovr := rfl
@[simp] theorem addCount_busErr (n : Nat) : (addCount n s).busErr = s.busErr := rfl
@[simp] theorem addCount_result (n : Nat) : (addCount n s).result = s.result := rfl
@[simp] theorem addCount_doneIe (n : Nat) : (addCount n s).doneIe = s.doneIe := rfl
@[simp] theorem addCount_errIe (n : Nat) : (addCount n s).errIe = s.errIe := rfl
@[simp] theorem addCount_latch (n : Nat) : (addCount n s).latch = s.latch := rfl
@[simp] theorem addCount_agenda (n : Nat) : (addCount n s).agenda = s.agenda := rfl
@[simp] theorem addCount_draws (n : Nat) : (addCount n s).draws = s.draws := rfl
@[simp] theorem addCount_stream (n : Nat) : (addCount n s).stream = s.stream := rfl
@[simp] theorem addCount_answers (n : Nat) : (addCount n s).answers = s.answers := rfl
@[simp] theorem addCount_busy (n : Nat) : (addCount n s).busy = s.busy := rfl

/-! ### emitDigest -/

@[simp] theorem emitDigest_cv : (emitDigest s).cv = s.cv := rfl
@[simp] theorem emitDigest_buf : (emitDigest s).buf = s.buf := rfl
@[simp] theorem emitDigest_count : (emitDigest s).count = s.count := rfl
@[simp] theorem emitDigest_session : (emitDigest s).session = .finalized := rfl
@[simp] theorem emitDigest_digest : (emitDigest s).digest = s.cv := rfl
@[simp] theorem emitDigest_msgIn : (emitDigest s).msgIn = s.msgIn := rfl
@[simp] theorem emitDigest_lenLo : (emitDigest s).lenLo = s.lenLo := rfl
@[simp] theorem emitDigest_lenHi : (emitDigest s).lenHi = s.lenHi := rfl
@[simp] theorem emitDigest_padOut : (emitDigest s).padOut = s.padOut := rfl
@[simp] theorem emitDigest_padOutLen : (emitDigest s).padOutLen = s.padOutLen := rfl
@[simp] theorem emitDigest_done : (emitDigest s).done = s.done := rfl
@[simp] theorem emitDigest_err : (emitDigest s).err = s.err := rfl
@[simp] theorem emitDigest_ovr : (emitDigest s).ovr = s.ovr := rfl
@[simp] theorem emitDigest_busErr : (emitDigest s).busErr = s.busErr := rfl
@[simp] theorem emitDigest_result : (emitDigest s).result = s.result := rfl
@[simp] theorem emitDigest_doneIe : (emitDigest s).doneIe = s.doneIe := rfl
@[simp] theorem emitDigest_errIe : (emitDigest s).errIe = s.errIe := rfl
@[simp] theorem emitDigest_latch : (emitDigest s).latch = s.latch := rfl
@[simp] theorem emitDigest_agenda : (emitDigest s).agenda = s.agenda := rfl
@[simp] theorem emitDigest_draws : (emitDigest s).draws = s.draws := rfl
@[simp] theorem emitDigest_stream : (emitDigest s).stream = s.stream := rfl
@[simp] theorem emitDigest_answers : (emitDigest s).answers = s.answers := rfl
@[simp] theorem emitDigest_busy : (emitDigest s).busy = s.busy := rfl

/-! ### writePadding -/

@[simp] theorem writePadding_cv (p : List Byte) : (writePadding p s).cv = s.cv := by unfold writePadding; rfl
@[simp] theorem writePadding_buf (p : List Byte) : (writePadding p s).buf = s.buf := by unfold writePadding; rfl
@[simp] theorem writePadding_count (p : List Byte) : (writePadding p s).count = s.count := by unfold writePadding; rfl
@[simp] theorem writePadding_session (p : List Byte) : (writePadding p s).session = s.session := by unfold writePadding; rfl
@[simp] theorem writePadding_digest (p : List Byte) : (writePadding p s).digest = s.digest := by unfold writePadding; rfl
@[simp] theorem writePadding_msgIn (p : List Byte) : (writePadding p s).msgIn = s.msgIn := by unfold writePadding; rfl
@[simp] theorem writePadding_lenLo (p : List Byte) : (writePadding p s).lenLo = s.lenLo := by unfold writePadding; rfl
@[simp] theorem writePadding_lenHi (p : List Byte) : (writePadding p s).lenHi = s.lenHi := by unfold writePadding; rfl
@[simp] theorem writePadding_padOut (p : List Byte) : (writePadding p s).padOut = packPadding p := by unfold writePadding; rfl
@[simp] theorem writePadding_padOutLen (p : List Byte) : (writePadding p s).padOutLen = BitVec.ofNat 7 p.length := by unfold writePadding; rfl
@[simp] theorem writePadding_done (p : List Byte) : (writePadding p s).done = s.done := by unfold writePadding; rfl
@[simp] theorem writePadding_err (p : List Byte) : (writePadding p s).err = s.err := by unfold writePadding; rfl
@[simp] theorem writePadding_ovr (p : List Byte) : (writePadding p s).ovr = s.ovr := by unfold writePadding; rfl
@[simp] theorem writePadding_busErr (p : List Byte) : (writePadding p s).busErr = s.busErr := by unfold writePadding; rfl
@[simp] theorem writePadding_result (p : List Byte) : (writePadding p s).result = s.result := by unfold writePadding; rfl
@[simp] theorem writePadding_doneIe (p : List Byte) : (writePadding p s).doneIe = s.doneIe := by unfold writePadding; rfl
@[simp] theorem writePadding_errIe (p : List Byte) : (writePadding p s).errIe = s.errIe := by unfold writePadding; rfl
@[simp] theorem writePadding_latch (p : List Byte) : (writePadding p s).latch = s.latch := by unfold writePadding; rfl
@[simp] theorem writePadding_agenda (p : List Byte) : (writePadding p s).agenda = s.agenda := by unfold writePadding; rfl
@[simp] theorem writePadding_draws (p : List Byte) : (writePadding p s).draws = s.draws := by unfold writePadding; rfl
@[simp] theorem writePadding_stream (p : List Byte) : (writePadding p s).stream = s.stream := by unfold writePadding; rfl
@[simp] theorem writePadding_answers (p : List Byte) : (writePadding p s).answers = s.answers := by unfold writePadding; rfl
@[simp] theorem writePadding_busy (p : List Byte) : (writePadding p s).busy = s.busy := by unfold writePadding; rfl

/-! ### writeStatus -/

@[simp] theorem writeStatus_cv (v : Word) : (writeStatus v s).cv = s.cv := rfl
@[simp] theorem writeStatus_buf (v : Word) : (writeStatus v s).buf = s.buf := rfl
@[simp] theorem writeStatus_count (v : Word) : (writeStatus v s).count = s.count := rfl
@[simp] theorem writeStatus_session (v : Word) : (writeStatus v s).session = s.session := rfl
@[simp] theorem writeStatus_digest (v : Word) : (writeStatus v s).digest = s.digest := rfl
@[simp] theorem writeStatus_msgIn (v : Word) : (writeStatus v s).msgIn = s.msgIn := rfl
@[simp] theorem writeStatus_lenLo (v : Word) : (writeStatus v s).lenLo = s.lenLo := rfl
@[simp] theorem writeStatus_lenHi (v : Word) : (writeStatus v s).lenHi = s.lenHi := rfl
@[simp] theorem writeStatus_padOut (v : Word) : (writeStatus v s).padOut = s.padOut := rfl
@[simp] theorem writeStatus_padOutLen (v : Word) : (writeStatus v s).padOutLen = s.padOutLen := rfl
@[simp] theorem writeStatus_done (v : Word) : (writeStatus v s).done = (s.done && !v.getLsbD 1) := rfl
@[simp] theorem writeStatus_err (v : Word) : (writeStatus v s).err = (s.err && !v.getLsbD 2) := rfl
@[simp] theorem writeStatus_ovr (v : Word) : (writeStatus v s).ovr = (s.ovr && !v.getLsbD 3) := rfl
@[simp] theorem writeStatus_busErr (v : Word) : (writeStatus v s).busErr = (s.busErr && !v.getLsbD 4) := rfl
@[simp] theorem writeStatus_result (v : Word) : (writeStatus v s).result = s.result := rfl
@[simp] theorem writeStatus_doneIe (v : Word) : (writeStatus v s).doneIe = s.doneIe := rfl
@[simp] theorem writeStatus_errIe (v : Word) : (writeStatus v s).errIe = s.errIe := rfl
@[simp] theorem writeStatus_latch (v : Word) : (writeStatus v s).latch = s.latch := rfl
@[simp] theorem writeStatus_agenda (v : Word) : (writeStatus v s).agenda = s.agenda := rfl
@[simp] theorem writeStatus_draws (v : Word) : (writeStatus v s).draws = s.draws := rfl
@[simp] theorem writeStatus_stream (v : Word) : (writeStatus v s).stream = s.stream := rfl
@[simp] theorem writeStatus_answers (v : Word) : (writeStatus v s).answers = s.answers := rfl
@[simp] theorem writeStatus_busy (v : Word) : (writeStatus v s).busy = s.busy := rfl

/-! ### writeIrqEn -/

@[simp] theorem writeIrqEn_cv (v : Word) : (writeIrqEn v s).cv = s.cv := rfl
@[simp] theorem writeIrqEn_buf (v : Word) : (writeIrqEn v s).buf = s.buf := rfl
@[simp] theorem writeIrqEn_count (v : Word) : (writeIrqEn v s).count = s.count := rfl
@[simp] theorem writeIrqEn_session (v : Word) : (writeIrqEn v s).session = s.session := rfl
@[simp] theorem writeIrqEn_digest (v : Word) : (writeIrqEn v s).digest = s.digest := rfl
@[simp] theorem writeIrqEn_msgIn (v : Word) : (writeIrqEn v s).msgIn = s.msgIn := rfl
@[simp] theorem writeIrqEn_lenLo (v : Word) : (writeIrqEn v s).lenLo = s.lenLo := rfl
@[simp] theorem writeIrqEn_lenHi (v : Word) : (writeIrqEn v s).lenHi = s.lenHi := rfl
@[simp] theorem writeIrqEn_padOut (v : Word) : (writeIrqEn v s).padOut = s.padOut := rfl
@[simp] theorem writeIrqEn_padOutLen (v : Word) : (writeIrqEn v s).padOutLen = s.padOutLen := rfl
@[simp] theorem writeIrqEn_done (v : Word) : (writeIrqEn v s).done = s.done := rfl
@[simp] theorem writeIrqEn_err (v : Word) : (writeIrqEn v s).err = s.err := rfl
@[simp] theorem writeIrqEn_ovr (v : Word) : (writeIrqEn v s).ovr = s.ovr := rfl
@[simp] theorem writeIrqEn_busErr (v : Word) : (writeIrqEn v s).busErr = s.busErr := rfl
@[simp] theorem writeIrqEn_result (v : Word) : (writeIrqEn v s).result = s.result := rfl
@[simp] theorem writeIrqEn_doneIe (v : Word) : (writeIrqEn v s).doneIe = v.getLsbD 0 := rfl
@[simp] theorem writeIrqEn_errIe (v : Word) : (writeIrqEn v s).errIe = v.getLsbD 1 := rfl
@[simp] theorem writeIrqEn_latch (v : Word) : (writeIrqEn v s).latch = s.latch := rfl
@[simp] theorem writeIrqEn_agenda (v : Word) : (writeIrqEn v s).agenda = s.agenda := rfl
@[simp] theorem writeIrqEn_draws (v : Word) : (writeIrqEn v s).draws = s.draws := rfl
@[simp] theorem writeIrqEn_stream (v : Word) : (writeIrqEn v s).stream = s.stream := rfl
@[simp] theorem writeIrqEn_answers (v : Word) : (writeIrqEn v s).answers = s.answers := rfl
@[simp] theorem writeIrqEn_busy (v : Word) : (writeIrqEn v s).busy = s.busy := rfl

/-! ### resetEngine -/

@[simp] theorem resetEngine_cv : (resetEngine s).cv = Quad.zero := rfl
@[simp] theorem resetEngine_buf : (resetEngine s).buf = [] := rfl
@[simp] theorem resetEngine_count : (resetEngine s).count = 0 := rfl
@[simp] theorem resetEngine_session : (resetEngine s).session = .idle := rfl
@[simp] theorem resetEngine_digest : (resetEngine s).digest = Quad.zero := rfl
@[simp] theorem resetEngine_msgIn : (resetEngine s).msgIn = Vector.replicate 16 0 := rfl
@[simp] theorem resetEngine_lenLo : (resetEngine s).lenLo = 0 := rfl
@[simp] theorem resetEngine_lenHi : (resetEngine s).lenHi = 0 := rfl
@[simp] theorem resetEngine_padOut : (resetEngine s).padOut = Vector.replicate 18 0 := rfl
@[simp] theorem resetEngine_padOutLen : (resetEngine s).padOutLen = 0 := rfl
@[simp] theorem resetEngine_done : (resetEngine s).done = false := rfl
@[simp] theorem resetEngine_err : (resetEngine s).err = false := rfl
@[simp] theorem resetEngine_ovr : (resetEngine s).ovr = false := rfl
@[simp] theorem resetEngine_busErr : (resetEngine s).busErr = false := rfl
@[simp] theorem resetEngine_result : (resetEngine s).result = 0 := rfl
@[simp] theorem resetEngine_doneIe : (resetEngine s).doneIe = false := rfl
@[simp] theorem resetEngine_errIe : (resetEngine s).errIe = false := rfl
@[simp] theorem resetEngine_latch : (resetEngine s).latch = none := rfl
@[simp] theorem resetEngine_agenda : (resetEngine s).agenda = s.agenda := rfl
@[simp] theorem resetEngine_draws : (resetEngine s).draws = s.draws := rfl
@[simp] theorem resetEngine_stream : (resetEngine s).stream = s.stream := rfl
@[simp] theorem resetEngine_answers : (resetEngine s).answers = s.answers := rfl
@[simp] theorem resetEngine_busy : (resetEngine s).busy = false := rfl

/-! ### answer -/

@[simp] theorem answer_cv (x : Answer) : (answer x s).cv = s.cv := rfl
@[simp] theorem answer_buf (x : Answer) : (answer x s).buf = s.buf := rfl
@[simp] theorem answer_count (x : Answer) : (answer x s).count = s.count := rfl
@[simp] theorem answer_session (x : Answer) : (answer x s).session = s.session := rfl
@[simp] theorem answer_digest (x : Answer) : (answer x s).digest = s.digest := rfl
@[simp] theorem answer_msgIn (x : Answer) : (answer x s).msgIn = s.msgIn := rfl
@[simp] theorem answer_lenLo (x : Answer) : (answer x s).lenLo = s.lenLo := rfl
@[simp] theorem answer_lenHi (x : Answer) : (answer x s).lenHi = s.lenHi := rfl
@[simp] theorem answer_padOut (x : Answer) : (answer x s).padOut = s.padOut := rfl
@[simp] theorem answer_padOutLen (x : Answer) : (answer x s).padOutLen = s.padOutLen := rfl
@[simp] theorem answer_done (x : Answer) : (answer x s).done = s.done := rfl
@[simp] theorem answer_err (x : Answer) : (answer x s).err = s.err := rfl
@[simp] theorem answer_ovr (x : Answer) : (answer x s).ovr = s.ovr := rfl
@[simp] theorem answer_busErr (x : Answer) : (answer x s).busErr = s.busErr := rfl
@[simp] theorem answer_result (x : Answer) : (answer x s).result = s.result := rfl
@[simp] theorem answer_doneIe (x : Answer) : (answer x s).doneIe = s.doneIe := rfl
@[simp] theorem answer_errIe (x : Answer) : (answer x s).errIe = s.errIe := rfl
@[simp] theorem answer_latch (x : Answer) : (answer x s).latch = s.latch := rfl
@[simp] theorem answer_agenda (x : Answer) : (answer x s).agenda = s.agenda := rfl
@[simp] theorem answer_draws (x : Answer) : (answer x s).draws = s.draws := rfl
@[simp] theorem answer_stream (x : Answer) : (answer x s).stream = s.stream := rfl
@[simp] theorem answer_answers (x : Answer) : (answer x s).answers = x :: s.answers := rfl
@[simp] theorem answer_busy (x : Answer) : (answer x s).busy = s.busy := rfl

end Sys2Proof.Machine
end

