-- ==== Sys2Proof/Laws/Bus.lean ====
section
/-! SUPPORT. The register map and what a host access can do, said once. -/

namespace Sys2Proof.Machine

/-- The register found at an offset has that offset. -/
theorem offset_of_regAt {off : Nat} {r : Reg} (h : regAt off = some r) : r.offset = off := by
  simpa using List.find?_some h

/-- Every register is found at its offset (10_state R46). -/
theorem regAt_offset (r : Reg) : regAt r.offset = some r := by
  cases r with
  | msgIn i => revert i; decide
  | padOut i => revert i; decide
  | _ => decide

theorem offset_lt (r : Reg) : r.offset < 0x108 ∧ r.offset % 4 = 0 := by
  cases r with
  | msgIn i => simp only [Reg.offset]; omega
  | padOut i => simp only [Reg.offset]; omega
  | _ => decide

/-- A 4-byte access at a register's offset reaches the register. -/
theorem accessReg_offset (r : Reg) : accessReg 4 (BitVec.ofNat 9 r.offset) = some r := by
  have h := offset_lt r
  simp only [accessReg, BitVec.toNat_ofNat, show r.offset % 2 ^ 9 = r.offset by omega]
  simp [h.2, regAt_offset]

/-- An accepted access is 4 bytes at the offset of its register (20_memory R63). -/
theorem accessReg_some {size : Nat} {off : BitVec 9} {r : Reg} (h : accessReg size off = some r) :
    size = 4 ∧ off.toNat = r.offset := by
  unfold accessReg at h
  split at h
  · cases h
  · split at h
    · cases h
    · exact ⟨by omega, (offset_of_regAt h).symm⟩

/-- `wr r, v` lands in `writeReg`, and the bus answers normally (20_memory R61). -/
theorem hostWr_eq (r : Reg) (v : Word) (s : State) :
    applyEvent (hostWr r v) s = .next (answer (.wrote .okay) (writeReg r v s)) := by
  simp only [applyEvent, hostWr, busAccess, busWrite, accessReg_offset]

/-- `rd r` answers the value of the read, and draws where the value is free (10_state R49). -/
theorem hostRd_eq (r : Reg) (s : State) :
    applyEvent (hostRd r) s = .next { s with
      draws := if drawsFree s r then s.draws + 1 else s.draws
      answers := .read (readValue s r) .okay :: s.answers } := by
  simp only [applyEvent, hostRd, busAccess, busRead, accessReg_offset, answer]

/-- Keeping the low bits of a word: a register without its reserved bits (93 U12). -/
theorem mask_result (x : Word) : x &&& Reg.fieldMask .result = 0#16 ++ x.extractLsb' 0 16 := by
  apply BitVec.eq_of_getLsbD_eq
  intro i hi
  have low : (Reg.fieldMask .result).getLsbD i = decide (i < 16) := by revert i; decide
  rw [BitVec.getLsbD_append, BitVec.getLsbD_and, low]
  by_cases h : i < 16 <;> simp [h]

theorem mask_bufLen (x : Word) : x &&& Reg.fieldMask .bufLen = 0#26 ++ x.extractLsb' 0 6 := by
  apply BitVec.eq_of_getLsbD_eq
  intro i hi
  have low : (Reg.fieldMask .bufLen).getLsbD i = decide (i < 6) := by revert i; decide
  rw [BitVec.getLsbD_append, BitVec.getLsbD_and, low]
  by_cases h : i < 6 <;> simp [h]

theorem mask_padOutLen (x : Word) : x &&& Reg.fieldMask .padOutLen = 0#25 ++ x.extractLsb' 0 7 := by
  apply BitVec.eq_of_getLsbD_eq
  intro i hi
  have low : (Reg.fieldMask .padOutLen).getLsbD i = decide (i < 7) := by revert i; decide
  rw [BitVec.getLsbD_append, BitVec.getLsbD_and, low]
  by_cases h : i < 7 <;> simp [h]

/-- What a read while BUSY of a register of R49 other than STATUS returns: the free word outside the reserved bits. -/
theorem readValue_free (s : State) (r : Reg) (hb : s.busy = true) (hr : r.unspecifiedWhileBusy = true) :
    readValue s r = freeWord s &&& r.fieldMask := by
  have hs : r ≠ .status := by rintro rfl; cases hr
  simp [readValue, drawsFree, hb, hr, hs]

/-- The bits of STATUS (10_state R26). -/
theorem getLsbD_statusWith (s : State) (x : BitVec 2) (b : Nat) :
    (statusWith s x).getLsbD b
      = if b = 0 then s.busy else if b = 1 then s.done else if b = 2 then s.err else if b = 3 then s.ovr
        else if b = 4 then s.busErr else if b = 5 then x.getLsbD 0 else if b = 6 then x.getLsbD 1 else false := by
  unfold statusWith
  simp only [BitVec.getLsbD_append, BitVec.getLsbD_ofBool]
  have : b = 0 ∨ b = 1 ∨ b = 2 ∨ b = 3 ∨ b = 4 ∨ b = 5 ∨ b = 6 ∨ 7 ≤ b := by omega
  rcases this with rfl | rfl | rfl | rfl | rfl | rfl | rfl | h
  all_goals simp
  have h1 : ¬ b = 0 := by omega
  have h2 : ¬ b = 1 := by omega
  have h3 : ¬ b = 2 := by omega
  have h4 : ¬ b = 3 := by omega
  have h5 : ¬ b = 4 := by omega
  have h6 : ¬ b = 5 := by omega
  have h7 : ¬ b = 6 := by omega
  simp only [h1, h2, h3, h4, h5, h6, h7, if_false]
  simp [show ¬ b - 1 = 0 by omega, show ¬ b - 1 - 1 = 0 by omega, show ¬ b - 1 - 1 - 1 = 0 by omega, show ¬ b - 1 - 1 - 1 - 1 = 0 by omega]
  omega

/-- What a host access can do (20_memory R61 to R66, 70_reset R250): it is rejected, it reads, its write is dropped,
ignored or lands in one of the writable registers. -/
theorem busAccess_cases (a : Access) (s : State) :
    ∃ x u, busAccess a s = answer x u
      ∧ (u = { s with busErr := true }
        ∨ (∃ n, u = { s with draws := n })
        ∨ (s.busy = true ∧ u = { s with ovr := true })
        ∨ (∃ v, a = .write 4 0x004 v ∧ s.busy = false ∧ u = accept v s)
        ∨ (∃ v, a = .write 4 0x008 v ∧ u = writeStatus v s)
        ∨ (∃ v, u = writeIrqEn v s)
        ∨ (s.busy = false ∧ ∃ lo hi m, u = { s with lenLo := lo, lenHi := hi, msgIn := m })) := by
  cases a with
  | read size off =>
    simp only [busAccess, busRead]
    split
    · exact ⟨_, _, rfl, .inl rfl⟩
    · exact ⟨_, _, rfl, .inr (.inl ⟨_, rfl⟩)⟩
  | write size off v =>
    simp only [busAccess, busWrite]
    split
    · exact ⟨_, _, rfl, .inl rfl⟩
    · rename_i r hr
      obtain ⟨rfl, ho⟩ := accessReg_some hr
      refine ⟨_, _, rfl, ?_⟩
      simp only [writeReg]
      split
      · rename_i hb
        simp only [Bool.and_eq_true] at hb
        exact .inr (.inr (.inl ⟨hb.1, rfl⟩))
      · rename_i hb
        have free (hl : r.lockedWhileBusy = true) : s.busy = false := by simpa [hl] using hb
        have place (k : Nat) (hk : r.offset = k) : off = BitVec.ofNat 9 k := by
          rw [← hk, ← ho]; simp
        cases r with
        | cmd => exact .inr (.inr (.inr (.inl ⟨v, by rw [place 4 rfl]; rfl, free rfl, rfl⟩)))
        | status => exact .inr (.inr (.inr (.inr (.inl ⟨v, by rw [place 8 rfl]; rfl, rfl⟩))))
        | irqEn => exact .inr (.inr (.inr (.inr (.inr (.inl ⟨v, rfl⟩)))))
        | lenLo => exact .inr (.inr (.inr (.inr (.inr (.inr ⟨free rfl, v, s.lenHi, s.msgIn, rfl⟩)))))
        | lenHi => exact .inr (.inr (.inr (.inr (.inr (.inr ⟨free rfl, s.lenLo, v, s.msgIn, rfl⟩)))))
        | msgIn i =>
          exact .inr (.inr (.inr (.inr (.inr (.inr ⟨free rfl, s.lenLo, s.lenHi, s.msgIn.set i.val v, rfl⟩)))))
        | _ => exact .inr (.inl ⟨s.draws, rfl⟩)

end Sys2Proof.Machine
end

