-- ==== Sys2Proof/Laws/Encoding.lean ====
section
/-! SUPPORT. The fields of a command word: what the decoder reads back of three fields put together, and that a word
is its three fields (30_encoding R81). -/

namespace Sys2Proof

variable (z : BitVec 17) (n : BitVec 7) (op : Byte)

/-- Bit i of a word put together from its three fields. -/
theorem getLsbD_fields (i : Nat) (hi : i < 32) :
    (z ++ n ++ op).getLsbD i
      = if i < 8 then op.getLsbD i else if i < 15 then n.getLsbD (i - 8) else z.getLsbD (i - 15) := by
  simp only [BitVec.getLsbD_append]
  split
  · rfl
  · by_cases h : i < 15
    · simp only [h, if_true, show i - 8 < 7 by omega]
    · simp only [h, if_false, show ¬ i - 8 < 7 by omega, show i - 8 - 7 = i - 15 by omega]

@[simp] theorem opField_append : opField (z ++ n ++ op) = op := by
  apply BitVec.eq_of_getLsbD_eq
  intro i hi
  simp [opField, getLsbD_fields z n op i (by omega), hi]

@[simp] theorem nField_append : nField (z ++ n ++ op) = n := by
  apply BitVec.eq_of_getLsbD_eq
  intro i hi
  simp [nField, getLsbD_fields z n op (8 + i) (by omega), hi,
    show 8 + i < 15 by omega]

@[simp] theorem reservedField_append : reservedField (z ++ n ++ op) = z := by
  apply BitVec.eq_of_getLsbD_eq
  intro i hi
  simp [reservedField, getLsbD_fields z n op (15 + i) (by omega), hi, show ¬ 15 + i < 8 by omega]

/-- A word is its three fields. -/
theorem word_eq_fields (c : Word) : reservedField c ++ nField c ++ opField c = c := by
  apply BitVec.eq_of_getLsbD_eq
  intro i hi
  rw [getLsbD_fields _ _ _ i hi]
  simp only [reservedField, nField, opField, BitVec.getLsbD_extractLsb']
  split
  · simp [*]
  · split
    · simp [show i - 8 < 7 by omega, show 8 + (i - 8) = i by omega]
    · simp [show i - 15 < 17 by omega, show 15 + (i - 15) = i by omega]

end Sys2Proof
end

