-- ==== Sys2Proof/Laws/Decode.lean ====
section
/-! SUPPORT. The decoder against the word read as a number (30_encoding R81 to R85). -/

namespace Sys2Proof.Machine

/-- The three fields of a command word as numbers (30_encoding R81, R82). -/
theorem fields_toNat (c : Word) :
    (reservedField c).toNat = c.toNat / 2 ^ 15 ∧ (nField c).toNat = c.toNat / 2 ^ 8 % 2 ^ 7
    ∧ (opField c).toNat = c.toNat % 2 ^ 8 := by
  refine ⟨?_, ?_, ?_⟩
  · simp only [reservedField, BitVec.extractLsb'_toNat, Nat.shiftRight_eq_div_pow]
    have := c.isLt
    omega
  · simp only [nField, BitVec.extractLsb'_toNat, Nat.shiftRight_eq_div_pow]
  · simp [opField, BitVec.extractLsb'_toNat]

/-- What the decoder answers, by the row of 30_encoding R85 the word falls under. -/
theorem decode_cases (c : Word) :
    (illegalInfoOf c = 1 ∧ decode c = .illegal .reservedBits)
    ∨ (illegalInfoOf c = 2 ∧ decode c = .illegal .undefinedOp)
    ∨ (illegalInfoOf c = 3 ∧ decode c = .illegal .strayCount)
    ∨ (illegalInfoOf c = 4 ∧ decode c = .illegal .longUpdate)
    ∨ (illegalInfoOf c = 0 ∧ ∃ i, decode c = .command i ∧ i.WellFormed
        ∧ c.toNat % 2 ^ 8 = i.opcode.toNat ∧ c.toNat / 2 ^ 8 % 2 ^ 7 = i.count.toNat) := by
  obtain ⟨hr, hn, ho⟩ := fields_toNat c
  have key : ∀ k : Byte, opField c = k ↔ c.toNat % 2^8 = k.toNat := by
    intro k; rw [← ho]; exact BitVec.toNat_inj.symm
  have kn : nField c = 0 ↔ c.toNat / 2^8 % 2^7 = 0 := by
    rw [← hn]; exact BitVec.toNat_inj.symm
  have kr : reservedField c = 0 ↔ c.toNat / 2^15 = 0 := by
    rw [← hr]; exact BitVec.toNat_inj.symm
  unfold decode illegalInfoOf decodePlain
  simp only [key, kn, ne_eq, kr, hn, List.mem_cons, List.not_mem_nil, or_false]
  simp only [show BitVec.toNat (1 : Byte) = 1 from rfl, show BitVec.toNat (2 : Byte) = 2 from rfl,
    show BitVec.toNat (3 : Byte) = 3 from rfl, show BitVec.toNat (4 : Byte) = 4 from rfl,
    show BitVec.toNat (5 : Byte) = 5 from rfl, show BitVec.toNat (6 : Byte) = 6 from rfl]
  have ob : c.toNat % 2^8 < 2^8 := Nat.mod_lt _ (by decide)
  generalize c.toNat / 2^15 = rr at *
  generalize c.toNat / 2^8 % 2^7 = nn at *
  generalize c.toNat % 2^8 = oo at *
  by_cases h0 : rr = 0
  swap
  · simp [h0]
  subst h0
  have h8 : oo = 0 ∨ oo = 1 ∨ oo = 2 ∨ oo = 3 ∨ oo = 4 ∨ oo = 5 ∨ oo = 6 ∨ 7 ≤ oo := by omega
  rcases h8 with h | h | h | h | h | h | h | h
  · simp [h]
  · by_cases hz : nn = 0 <;> simp [h, hz, Instr.opcode, Instr.count, Instr.WellFormed]
  · by_cases hz : 64 < nn
    · simp [h, hz]
    · simp [h, hz, Instr.opcode, Instr.count, Instr.WellFormed, hn]; omega
  · by_cases hz : nn = 0 <;> simp [h, hz, Instr.opcode, Instr.count, Instr.WellFormed]
  · by_cases hz : nn = 0 <;> simp [h, hz, Instr.opcode, Instr.count, Instr.WellFormed]
  · simp [h, Instr.opcode, Instr.count, Instr.WellFormed, hn]
  · by_cases hz : nn = 0 <;> simp [h, hz, Instr.opcode, Instr.count, Instr.WellFormed]
  · simp [h, show ¬ oo = 1 by omega, show ¬ oo = 2 by omega, show ¬ oo = 3 by omega, show ¬ oo = 4 by omega, show ¬ oo = 5 by omega, show ¬ oo = 6 by omega]

/-- The opcode of the command a word decodes to is bits 7:0 of the word (30_encoding R81). -/
theorem opcode_of_decode {c : Word} {i : Instr} (h : decode c = .command i) : c.extractLsb' 0 8 = i.opcode := by
  rcases decode_cases c with ⟨_, b⟩ | ⟨_, b⟩ | ⟨_, b⟩ | ⟨_, b⟩ | ⟨_, _, b, _, o, _⟩ <;> rw [b] at h <;> cases h
  apply BitVec.eq_of_toNat_eq
  rw [← o]
  exact (fields_toNat c).2.2

end Sys2Proof.Machine
end

