-- ==== Sys2Proof/Laws/Operands.lean ====
section
/-! SUPPORT. The operands of a command: what `lenVal`, the checks and the input bytes can answer, each said once. -/

namespace Sys2Proof.Machine

/-- `lenval()` by the value of the length operand (10_state R52). -/
theorem lenVal_cases (s : State) :
    (lenVal s = .error .lengthNegative ∧ 2 ^ 63 ≤ (lenOperand s).toNat)
    ∨ (lenVal s = .error .lengthTooLong ∧ 2 ^ 61 ≤ (lenOperand s).toNat ∧ (lenOperand s).toNat < 2 ^ 63)
    ∨ (lenVal s = .ok (lenOperand s).toNat ∧ (lenOperand s).toNat < 2 ^ 61) := by
  unfold lenVal Config.maxLen
  cases h : (lenOperand s).msb
  · rw [BitVec.msb_eq_false_iff_two_mul_lt] at h
    by_cases h' : (lenOperand s).toNat > 2 ^ 61 - 1
    · exact .inr (.inl ⟨by rw [if_neg (by simp), if_pos h'], by omega, by omega⟩)
    · exact .inr (.inr ⟨by rw [if_neg (by simp), if_neg h'], by omega⟩)
  · rw [BitVec.msb_eq_true_iff_two_mul_ge] at h
    exact .inl ⟨by simp, by omega⟩

/-- The checks of UPDATE by session and count (40_session R103). -/
theorem updateFailure_cases (n : BitVec 7) (s : State) :
    (updateFailure n s = some .noSession ∧ s.session = .idle)
    ∨ (updateFailure n s = some .sessionFinalized ∧ s.session = .finalized)
    ∨ (updateFailure n s = some .countOverflow ∧ s.session = .active
        ∧ Config.maxLen < s.count.toNat + n.toNat)
    ∨ (updateFailure n s = none ∧ s.session = .active ∧ s.count.toNat + n.toNat ≤ Config.maxLen) := by
  unfold updateFailure sessionFailure
  cases h : s.session
  · simp
  · by_cases h' : s.count.toNat + n.toNat > Config.maxLen
    · simp [h']
    · simp [h', Nat.le_of_not_lt h']
  · simp

/-- The session check of FINAL (40_session R106). -/
theorem sessionFailure_cases (s : State) :
    (sessionFailure s = some .noSession ∧ s.session = .idle)
    ∨ (sessionFailure s = some .sessionFinalized ∧ s.session = .finalized)
    ∨ (sessionFailure s = none ∧ s.session = .active) := by
  unfold sessionFailure
  cases h : s.session <;> simp

/-- The checks of SEED by count field and length operand (43_forge R184). -/
theorem seedLength_cases (n : BitVec 7) (s : State) :
    (seedLength n s = .error .digestSize ∧ n ≠ 16)
    ∨ (n = 16 ∧ seedLength n s = .error .lengthNegative ∧ 2 ^ 63 ≤ (lenOperand s).toNat)
    ∨ (n = 16 ∧ seedLength n s = .error .lengthTooLong
        ∧ 2 ^ 61 ≤ (lenOperand s).toNat ∧ (lenOperand s).toNat < 2 ^ 63)
    ∨ (n = 16 ∧ seedLength n s = .error .seedOverflow ∧ (lenOperand s).toNat < 2 ^ 61
        ∧ Config.maxLen < (lenOperand s).toNat + (paddingFor (lenOperand s).toNat).length)
    ∨ (n = 16 ∧ seedLength n s = .ok (lenOperand s).toNat
        ∧ (lenOperand s).toNat + (paddingFor (lenOperand s).toNat).length ≤ Config.maxLen) := by
  unfold seedLength
  by_cases hn : n = 16
  swap
  · exact .inl ⟨by rw [if_pos hn], hn⟩
  right
  simp only [hn, ne_eq, not_true_eq_false, if_false, true_and]
  rcases lenVal_cases s with ⟨a, b⟩ | ⟨a, b⟩ | ⟨a, b⟩
  · exact .inl ⟨by rw [a], b⟩
  · exact .inr (.inl ⟨by rw [a], b⟩)
  · by_cases h : (lenOperand s).toNat + (paddingFor (lenOperand s).toNat).length > Config.maxLen
    · exact .inr (.inr (.inl ⟨by simp only [a]; rw [if_pos h], b, h⟩))
    · exact .inr (.inr (.inr ⟨by simp only [a]; rw [if_neg h], by omega⟩))

/-- The length operand as a signed and as an unsigned number (10_state R52). -/
theorem lenOperand_toInt (s : State) :
    ((lenOperand s).toInt < 0 ↔ 2 ^ 63 ≤ (lenOperand s).toNat)
    ∧ ((lenOperand s).toNat < 2 ^ 63 → (lenOperand s).toInt = (lenOperand s).toNat) := by
  have h := BitVec.toInt_eq_toNat_cond (lenOperand s)
  have := (lenOperand s).isLt
  split at h <;> constructor <;> (try constructor) <;> intros <;> omega

/-- Byte k of the input window is byte k mod 4 of word k / 4 (00_scope R11). -/
theorem msgByte_eq (s : State) (k : Nat) (hk : k < 64) : msgByte s k = byteOf s.msgIn[k / 4] (k % 4) := by
  simp [msgByte, show k / 4 < 16 by omega]

@[simp] theorem length_msgBytes (s : State) (n : Nat) : (msgBytes s n).length = n := by simp [msgBytes]

/-- The input bytes depend on MSG_IN alone. -/
theorem msgBytes_congr {s t : State} (h : t.msgIn = s.msgIn) (n : Nat) : msgBytes t n = msgBytes s n := by
  simp [msgBytes, msgByte, h]

/-- The length operand depends on LEN_LO and LEN_HI alone. -/
theorem lenVal_congr {s t : State} (hl : t.lenLo = s.lenLo) (hh : t.lenHi = s.lenHi) : lenVal t = lenVal s := by
  simp [lenVal, lenOperand, hl, hh]

/-- The first sixteen input bytes parse to the first four input words (43_forge R182). -/
theorem parse_msgBytes (s : State) :
    parse (msgBytes s 16) = ⟨s.msgIn[0], s.msgIn[1], s.msgIn[2], s.msgIn[3]⟩ := by
  have word (i : Nat) (hi : i < 4) : wordAt (msgBytes s 16) i = s.msgIn[i] := by
    rw [← le32_byteOf s.msgIn[i]]
    have byte (b : Nat) (hb : b < 4) : (msgBytes s 16).getD (4 * i + b) 0 = byteOf s.msgIn[i] b := by
      rw [List.getD_eq_getElem?_getD]
      simp only [msgBytes, List.getElem?_map, List.getElem?_range (show 4 * i + b < 16 by omega), Option.map_some,
        Option.getD_some]
      rw [msgByte_eq _ _ (by omega)]
      simp only [show (4 * i + b) / 4 = i by omega, show (4 * i + b) % 4 = b by omega]
    rw [wordAt, byte 1 (by omega), byte 2 (by omega), byte 3 (by omega)]
    simpa using congrArg (le32 · _ _ _) (byte 0 (by omega))
  simp [parse, word]

end Sys2Proof.Machine
end

