-- ==== Sys2Proof/Laws/Padding.lean ====
section
/-! SUPPORT. The padding and the window it is written to. -/

namespace Sys2Proof.Machine

/-- The zero bytes of the padding as natural numbers: 55 - L mod 64, or 119 - L mod 64 past the boundary. -/
theorem zeroBytes_eq (L : Nat) : zeroBytes L = (119 - L % 64) % 64 := by
  unfold zeroBytes
  omega

theorem length_paddingFor_eq (L : Nat) : (paddingFor L).length = 9 + zeroBytes L := by
  simp [paddingFor]
  omega

/-- The bounds of the padding's length, and that it ends on a block (42_padding R162). -/
theorem length_paddingFor_bounds (L : Nat) :
    9 ≤ (paddingFor L).length ∧ (paddingFor L).length ≤ 72 ∧ (L + (paddingFor L).length) % 64 = 0 := by
  rw [length_paddingFor_eq, zeroBytes_eq]
  omega

/-- A padding byte depends on PAD_OUT alone. -/
theorem padByte_congr {s t : State} (h : t.padOut = s.padOut) (k : Nat) : padByte t k = padByte s k := by
  unfold padByte
  rw [h]

/-- Byte k of the padding window after p is written to it is byte k of p, 0x00 past the end (10_state R42). -/
theorem padByte_writePadding (p : List Byte) (s : State) (k : Nat) (hk : k < 72) :
    padByte (writePadding p s) k = p.getD k 0 := by
  have h : k / 4 < 18 := by omega
  unfold padByte writePadding packPadding
  simp only [h, getElem?_pos, Vector.getElem_ofFn, Option.getD_some]
  rw [byteOf_wordAt _ _ _ (by omega), show 4 * (k / 4) + k % 4 = k by omega]

end Sys2Proof.Machine
end

