-- ==== Sys2Proof/Laws/Exec.lean ====
section
/-! SUPPORT. What each command, the engine's turn and one transition can do, said once. -/

namespace Sys2Proof.Machine

variable (s t : State)

/-- INIT has one way to end. -/
theorem exec_init : exec .init s = .next (completeOk 0x01 (loadSession Config.iv 0 .active s)) := rfl

/-- DISCARD has one way to end. -/
theorem exec_discard : exec .discard s = .next (completeOk 0x06 (loadSession Quad.zero 0 .idle s)) := rfl

/-- UPDATE fails by its first check, or absorbs (40_session R103). -/
theorem exec_update_fail {n : BitVec 7} {f : Failure} (h : updateFailure n s = some f) :
    exec (.update n) s = .next (completeFail 0x02 f s) := by
  simp [exec, execUpdate, h, Instr.opcode]

theorem exec_update_ok {n : BitVec 7} (h : updateFailure n s = none) :
    exec (.update n) s
      = .next (completeOk 0x02 (absorbInto (msgBytes s n.toNat) (addCount n.toNat s))) := by
  simp [exec, execUpdate, h, Instr.opcode]

/-- FINAL fails by its session check, or pads and emits (40_session R106). -/
theorem exec_final_fail {f : Failure} (h : sessionFailure s = some f) :
    exec .final s = .next (completeFail 0x03 f s) := by
  simp [exec, execFinal, h, Instr.opcode]

theorem exec_final_ok (h : sessionFailure s = none) :
    exec .final s = .next (completeOk 0x03 (emitDigest (absorbInto (paddingFor s.count.toNat) s))) := by
  simp [exec, execFinal, h, Instr.opcode]

/-- PAD fails on the length operand, or writes the padding (42_padding R163). -/
theorem exec_pad_fail {f : Failure} (h : lenVal s = .error f) :
    exec .pad s = .next (completeFail 0x04 f s) := by
  simp [exec, execPad, h, Instr.opcode]

theorem exec_pad_ok {L : Nat} (h : lenVal s = .ok L) :
    exec .pad s = .next (completeOk 0x04 (writePadding (paddingFor L) s)) := by
  simp [exec, execPad, h, Instr.opcode]

/-- SEED fails by its first check, or loads the session and writes the glue padding (43_forge R184). -/
theorem exec_seed_fail {n : BitVec 7} {f : Failure} (h : seedLength n s = .error f) :
    exec (.seed n) s = .next (completeFail 0x05 f s) := by
  simp [exec, execSeed, h, Instr.opcode]

theorem exec_seed_ok {n : BitVec 7} {L : Nat} (h : seedLength n s = .ok L) :
    exec (.seed n) s
      = .next (completeOk 0x05 (writePadding (paddingFor L)
          (loadSession (parse (msgBytes s 16)) (L + (paddingFor L).length) .active s))) := by
  simp [exec, execSeed, h, Instr.opcode]

/-- Bit i of a RESULT put together from its three fields (10_state R33). -/
theorem getLsbD_result (op : Byte) (info code : BitVec 4) (i : Nat) :
    (op ++ info ++ code : BitVec 16).getLsbD i
      = if i < 4 then code.getLsbD i else if i < 8 then info.getLsbD (i - 4) else op.getLsbD (i - 8) := by
  simp only [BitVec.getLsbD_append]
  by_cases h : i < 4
  · simp only [h, if_true]
  · by_cases h' : i < 8
    · simp only [h, h', if_true, if_false, show i - 4 < 4 by omega]
    · simp only [h, h', if_false, show ¬ i - 4 < 4 by omega, show i - 4 - 4 = i - 8 by omega]

/-- RESULT.CODE of a RESULT put together from its three fields. -/
@[simp] theorem resultCode_fields (op : Byte) (info code : BitVec 4) : resultCode (op ++ info ++ code) = code := by
  apply BitVec.eq_of_getLsbD_eq
  intro i hi
  simp [resultCode, getLsbD_result, hi]

/-- RESULT.OP of a RESULT put together from its three fields. -/
@[simp] theorem resultOp_fields (op : Byte) (info code : BitVec 4) : resultOp (op ++ info ++ code) = op := by
  apply BitVec.eq_of_getLsbD_eq
  intro i hi
  simp [resultOp, getLsbD_result, hi, show ¬ 8 + i < 4 by omega]

/-- The result code of a failure is the failure's, of a success it is 0 (60_exceptions R203, R204). -/
@[simp] theorem resultCode_failResult (op : Byte) (f : Failure) : resultCode (failResult op f) = f.code :=
  resultCode_fields op f.info f.code

/-- RESULT of a success is the RESULT with INFO and CODE 0. -/
theorem okResult_eq (op : Byte) : okResult op = op ++ 0#4 ++ 0#4 := by
  revert op
  decide

@[simp] theorem resultCode_okResult (op : Byte) : resultCode (okResult op) = 0 := by
  rw [okResult_eq, resultCode_fields]
  rfl

theorem failure_code_ne_zero (f : Failure) : f.code ≠ 0 := by cases f <;> simp [Failure.code]

/-- RESULT.OP of a completion is the opcode of the command. -/
@[simp] theorem resultOp_failResult (op : Byte) (f : Failure) : resultOp (failResult op f) = op :=
  resultOp_fields op f.info f.code

@[simp] theorem resultOp_okResult (op : Byte) : resultOp (okResult op) = op := by
  rw [okResult_eq, resultOp_fields]

/-- A word with three fields read off is the encoding of the command that has them. -/
theorem encode_of_fields {c : Word} {n : BitVec 7} {op : Byte} (hr : reservedField c = 0) (hn : nField c = n)
    (ho : opField c = op) : 0#17 ++ n ++ op = c := by
  rw [← word_eq_fields c, hr, hn, ho]
  rfl

/-- What a command can do (40_session, 42_padding R163, 43_forge R184): it fails precisely, or it succeeds by the
writes of its pseudocode, whose conditions held. -/
theorem exec_cases (i : Instr) (s : State) :
    (∃ f, exec i s = .next (completeFail i.opcode f s))
    ∨ ∃ u, exec i s = .next (completeOk i.opcode u) ∧ SameHostSide s u ∧ u.err = s.err
        ∧ match i with
          | .init => u = loadSession Config.iv 0 .active s
          | .update n => s.session = .active ∧ s.count.toNat + n.toNat ≤ Config.maxLen
              ∧ u = absorbInto (msgBytes s n.toNat) (addCount n.toNat s)
          | .final => s.session = .active ∧ u = emitDigest (absorbInto (paddingFor s.count.toNat) s)
          | .pad => (lenOperand s).toNat ≤ Config.maxLen ∧ u = writePadding (paddingFor (lenOperand s).toNat) s
          | .seed _ => (lenOperand s).toNat + (paddingFor (lenOperand s).toNat).length ≤ Config.maxLen
              ∧ u = writePadding (paddingFor (lenOperand s).toNat)
                  (loadSession (parse (msgBytes s 16))
                    ((lenOperand s).toNat + (paddingFor (lenOperand s).toNat).length) .active s)
          | .discard => u = loadSession Quad.zero 0 .idle s := by
  cases i with
  | init => exact .inr ⟨_, rfl, by simp [SameHostSide], by simp, rfl⟩
  | discard => exact .inr ⟨_, rfl, by simp [SameHostSide], by simp, rfl⟩
  | update n =>
    rcases updateFailure_cases n s with ⟨a, b⟩ | ⟨a, b⟩ | ⟨a, b, c⟩ | ⟨a, b, c⟩
    · exact .inl ⟨_, exec_update_fail s a⟩
    · exact .inl ⟨_, exec_update_fail s a⟩
    · exact .inl ⟨_, exec_update_fail s a⟩
    · exact .inr ⟨_, exec_update_ok s a, by simp [SameHostSide], by simp, b, c, rfl⟩
  | final =>
    rcases sessionFailure_cases s with ⟨a, b⟩ | ⟨a, b⟩ | ⟨a, b⟩
    · exact .inl ⟨_, exec_final_fail s a⟩
    · exact .inl ⟨_, exec_final_fail s a⟩
    · exact .inr ⟨_, exec_final_ok s a, by simp [SameHostSide], by simp, b, rfl⟩
  | pad =>
    rcases lenVal_cases s with ⟨a, b⟩ | ⟨a, b⟩ | ⟨a, b⟩
    · exact .inl ⟨_, exec_pad_fail s a⟩
    · exact .inl ⟨_, exec_pad_fail s a⟩
    · exact .inr ⟨_, exec_pad_ok s a, by simp [SameHostSide], by simp, Nat.le_of_lt_succ b, rfl⟩
  | seed n =>
    rcases seedLength_cases n s with ⟨a, b⟩ | ⟨b, a, c⟩ | ⟨b, a, c⟩ | ⟨b, a, c⟩ | ⟨b, a, c⟩
    · exact .inl ⟨_, exec_seed_fail s a⟩
    · exact .inl ⟨_, exec_seed_fail s a⟩
    · exact .inl ⟨_, exec_seed_fail s a⟩
    · exact .inl ⟨_, exec_seed_fail s a⟩
    · exact .inr ⟨_, exec_seed_ok s a, by simp [SameHostSide], by simp, c, rfl⟩

/-- RESULT.INFO of a failure is the failure's (60_exceptions R204). -/
@[simp] theorem resultInfo_failResult (op : Byte) (f : Failure) : resultInfo (failResult op f) = f.info := by
  apply BitVec.eq_of_getLsbD_eq
  intro i hi
  simp [resultInfo, failResult, getLsbD_result, hi, show ¬ 4 + i < 4 by omega, show 4 + i < 8 by omega]

/-- Every command completes (60_exceptions R205). -/
theorem exec_next (i : Instr) (s : State) : ∃ t, exec i s = .next t := by
  rcases exec_cases i s with ⟨_, h⟩ | ⟨_, h, -⟩ <;> exact ⟨_, h⟩

/-- No command reads or writes the model's own fields (logs 1, 4, 6). -/
theorem exec_ignores_own_fields (i : Instr) (s t : State) (a : List Event) (d : Nat) (x : List Answer)
    (h : exec i s = .next t) :
    exec i { s with agenda := a, draws := d, answers := x }
      = .next { t with agenda := a, draws := d, answers := x } := by
  cases i with
  | init => cases h; rfl
  | discard => cases h; rfl
  | update n =>
    simp only [exec, execUpdate] at h ⊢
    rw [show updateFailure n { s with agenda := a, draws := d, answers := x } = updateFailure n s from rfl]
    split at h <;> cases h <;> rfl
  | final =>
    simp only [exec, execFinal] at h ⊢
    rw [show sessionFailure { s with agenda := a, draws := d, answers := x } = sessionFailure s from rfl]
    split at h <;> cases h <;> rfl
  | pad =>
    simp only [exec, execPad] at h ⊢
    rw [show lenVal { s with agenda := a, draws := d, answers := x } = lenVal s from rfl]
    cases hl : lenVal s <;> simp only [hl] at h ⊢ <;> cases h <;> rfl
  | seed n =>
    simp only [exec, execSeed] at h ⊢
    rw [show seedLength n { s with agenda := a, draws := d, answers := x } = seedLength n s from rfl]
    cases hl : seedLength n s <;> simp only [hl] at h ⊢ <;> cases h <;> rfl

/-- The engine's turn: nothing to do, an illegal word, or the latched command (60_exceptions R202). -/
theorem engineTurn_cases (h : engineTurn s = .next t) :
    (s.latch = none ∧ t = s)
    ∨ (∃ c why, s.latch = some c ∧ decode c = .illegal why
        ∧ t = completeFail (opField c) (.illegalCommand why) s)
    ∨ (∃ c i, s.latch = some c ∧ decode c = .command i ∧ exec i s = .next t) := by
  unfold engineTurn at h
  split at h
  · cases h
    exact .inl ⟨‹_›, rfl⟩
  · split at h
    · cases h
      exact .inr (.inl ⟨_, _, ‹_›, ‹_›, rfl⟩)
    · exact .inr (.inr ⟨_, _, ‹_›, ‹_›, h⟩)

/-- One step: a host access, a reset, or the engine's turn (00_scope R12). -/
theorem nextTransition_cases (h : nextTransition s = .next t) :
    (∃ a rest, s.agenda = .access a :: rest ∧ t = busAccess a { s with agenda := rest })
    ∨ (∃ rest, s.agenda = .reset :: rest ∧ t = resetEngine { s with agenda := rest })
    ∨ (∃ rest, s.agenda = .engine :: rest ∧ engineTurn { s with agenda := rest } = .next t)
    ∨ (s.agenda = [] ∧ engineTurn s = .next t) := by
  unfold nextTransition at h
  split at h
  · exact .inr (.inr (.inr ⟨‹_›, h⟩))
  · rename_i e rest he
    cases e with
    | access a => cases h; exact .inl ⟨a, rest, he, rfl⟩
    | engine => exact .inr (.inr (.inl ⟨rest, he, h⟩))
    | reset => cases h; exact .inr (.inl ⟨rest, he, rfl⟩)

/-- A transition always has a next state: the engine has no trap (60_exceptions R205). -/
theorem applyEvent_next (e : Event) (s : State) : ∃ t, applyEvent e s = .next t := by
  cases e with
  | access a => exact ⟨_, rfl⟩
  | reset => exact ⟨_, rfl⟩
  | engine =>
    show ∃ t, engineTurn s = .next t
    unfold engineTurn
    split
    · exact ⟨_, rfl⟩
    · split
      · exact ⟨_, rfl⟩
      · exact exec_next _ _

/-- So has a step. -/
theorem nextTransition_next (s : State) : ∃ t, nextTransition s = .next t := by
  unfold nextTransition
  split
  · exact applyEvent_next .engine s
  · exact applyEvent_next _ _

end Sys2Proof.Machine
end

