-- ==== Sys2Proof/Laws/Feed.lean ====
section
/-! SUPPORT. What feeding a session leaves behind (40_session R103, R111, R112). -/

namespace Sys2Proof.Machine

/-- An UPDATE that succeeds was in an active session, fits below MAXLEN, and absorbs its bytes. -/
theorem update_effect {n : BitVec 7} {u v : State} (run : exec (.update n) u = .next v)
    (ok : resultCode v.result = 0) :
    u.session = .active ∧ u.count.toNat + n.toNat ≤ Config.maxLen ∧ v.session = .active
      ∧ v.count.toNat = u.count.toNat + n.toNat
      ∧ (⟨v.cv, v.buf⟩ : Sponge) = absorb ⟨u.cv, u.buf⟩ (msgBytes u n.toNat) := by
  rcases exec_cases (.update n) u with ⟨f, h⟩ | ⟨w, h, -, -, ha, hc, rfl⟩
  · rw [h] at run
    cases run
    simp only [completeFail_result, resultCode_failResult] at ok
    exact absurd ok (failure_code_ne_zero f)
  · rw [h] at run
    cases run
    have hM : Config.maxLen = 2 ^ 61 - 1 := rfl
    refine ⟨ha, hc, by simpa using ha, ?_, by simp⟩
    simp
    omega

/-- Feeding S: either nothing was fed and the session is the same, or the session was active, S fits, and chaining
state and buffer are those of `absorb`. -/
theorem feeds_effect {S : List Byte} {s t : State} (h : Feeds S s t) :
    SameSession s t ∧ S = []
    ∨ s.session = .active ∧ t.session = .active ∧ s.count.toNat + S.length ≤ Config.maxLen
      ∧ t.count.toNat = s.count.toNat + S.length ∧ (⟨t.cv, t.buf⟩ : Sponge) = absorb ⟨s.cv, s.buf⟩ S := by
  induction h with
  | stop idle => exact .inl ⟨idle, rfl⟩
  | @update s u v t n rest idle fit run ok more ih =>
    right
    obtain ⟨ha, hc, hv, hk, hs⟩ := update_effect run ok
    obtain ⟨i1, i2, i3, i4⟩ := idle
    rw [i1, i2] at hs
    rw [i4] at ha
    rw [i3] at hc hk
    rcases ih with ⟨⟨j1, j2, j3, j4⟩, rfl⟩ | ⟨-, b, c, d, e⟩
    · refine ⟨ha, by rw [j4, hv], by simpa using hc, by rw [j3, hk]; simp, ?_⟩
      rw [j1, j2, hs]
      simp
    · refine ⟨ha, b, by simp; omega, by rw [d, hk]; simp; omega, ?_⟩
      rw [e, hs, absorb_append]

/-- A message and its padding from the IV: the whole blocks of R112, and nothing buffered. -/
theorem absorb_padded (M : List Byte) :
    absorb ⟨Config.iv, []⟩ (M ++ paddingFor M.length) = ⟨md4Words M, []⟩ := by
  have h := length_paddingFor_bounds M.length
  rw [absorb_empty,
    show 64 * ((M ++ paddingFor M.length).length / 64) = (M ++ paddingFor M.length).length by simp; omega,
    List.take_length, List.drop_length]
  rfl

end Sys2Proof.Machine
end

