-- ==== Sys2Proof/Laws/PerInstr.lean ====
section
/-! SUPPORT. The per-instruction family Encoding: the three fields of every command's word (30_encoding R81, R83). -/

namespace Sys2Proof.Laws.Encoding

/-- The word of a command has reserved bits 0, the command's N and the command's opcode, and the opcode is one of
0x01 to 0x06. -/
def Statement (i : Instr) : Prop :=
  reservedField (encode i) = 0 ∧ nField (encode i) = i.count ∧ opField (encode i) = i.opcode
    ∧ 1 ≤ i.opcode.toNat ∧ i.opcode.toNat ≤ 6

theorem init : Statement .init := by
  refine ⟨?_, ?_, ?_, ?_, ?_⟩ <;> decide

theorem update (n : BitVec 7) : Statement (.update n) := by
  refine ⟨?_, ?_, ?_, ?_, ?_⟩ <;> simp [encode, Instr.count, Instr.opcode]

theorem final : Statement .final := by
  refine ⟨?_, ?_, ?_, ?_, ?_⟩ <;> decide

theorem pad : Statement .pad := by
  refine ⟨?_, ?_, ?_, ?_, ?_⟩ <;> decide

theorem seed (n : BitVec 7) : Statement (.seed n) := by
  refine ⟨?_, ?_, ?_, ?_, ?_⟩ <;> simp [encode, Instr.count, Instr.opcode]

theorem discard : Statement .discard := by
  refine ⟨?_, ?_, ?_, ?_, ?_⟩ <;> decide

end Sys2Proof.Laws.Encoding
end

