-- ==== Sys2Proof/Tests/Slice0.lean ====
section
/-! SUPPORT. Small tests of the model against the words and vectors of the spec (95_test_vectors, 30_encoding R83,
R91), and witnesses that the hypotheses of the statements can be met. -/

-- One theorem after the other: many at once take more memory than the build allows.
set_option Elab.async false

namespace Sys2Proof.Machine.Tests

/-! ## Helpers -/

/-- The state an outcome ends in, the reset state where it has none. -/
def endOf : Host.Outcome State Fault Refusal → State
  | .next s => s
  | .fault _ => State.reset
  | .refused _ => State.reset

/-- The bytes of a text of ASCII characters (00_scope R8). -/
def ascii (t : String) : List Byte := t.toList.map fun c => BitVec.ofNat 8 c.toNat

/-- A state with the words of MSG_IN0 to MSG_IN3 and the rest 0. -/
def withMsg (a b c d : Word) (s : State) : State :=
  { s with msgIn := #v[a, b, c, d, 0, 0, 0, 0, 0, 0, 0, 0, 0, 0, 0, 0] }

/-- A state with the length operand v. -/
def withLen (v : DWord) (s : State) : State := { s with lenLo := loWord v, lenHi := hiWord v }

/-- An active session fresh from INIT. -/
def started : State := endOf (exec .init State.reset)

/-- "abc" in MSG_IN and an active session (40_session R103, example). -/
def abcLoaded : State := withMsg 0x00636261 0 0 0 started

/-- The session of "abc" after UPDATE 3. -/
def abcFed : State := endOf (exec (.update 3) abcLoaded)

/-- The session of "abc" after FINAL. -/
def abcDone : State := endOf (exec .final abcFed)

/-- The four words of the digest of "abc" (95_test_vectors V2). -/
def abcDigest : Quad := ⟨0x7a0148a4, 0x52d821af, 0xe80ac15f, 0x9d72a67a⟩

/-- The four words of the digest of the empty message (V1). -/
def emptyDigest : Quad := ⟨0xe0cfd631, 0x31e96ad1, 0xd7593cb7, 0xc089c0e0⟩

/-- The operands of the SEED example (43_forge R184). -/
def seedLoaded : State := withLen 3 (withMsg 0x7a0148a4 0x52d821af 0xe80ac15f 0x9d72a67a State.reset)

/-! ## Well-formedness: the one check refuses an ill-formed term -/

theorem test_update_65_is_ill_formed : ¬ (Instr.update 65).WellFormed := by decide
theorem test_update_64_is_well_formed : (Instr.update 64).WellFormed := by decide

/-! ## Decoding: words written out from 30_encoding R81, R83, R91 and V50 -/

theorem test_decode_init : decode 0b00000000000000000_0000000_00000001#32 = .command .init := by decide
theorem test_decode_update3 : decode 0b00000000000000000_0000011_00000010#32 = .command (.update 3) := by decide
theorem test_decode_update64 : decode 0x00004002 = .command (.update 64) := by decide
theorem test_decode_final : decode 0b00000000000000000_0000000_00000011#32 = .command .final := by decide
theorem test_decode_pad : decode 0b00000000000000000_0000000_00000100#32 = .command .pad := by decide
theorem test_decode_seed16 : decode 0b00000000000000000_0010000_00000101#32 = .command (.seed 16) := by decide
theorem test_decode_seed15 : decode 0x00000F05 = .command (.seed 15) := by decide
theorem test_decode_discard : decode 0b00000000000000000_0000000_00000110#32 = .command .discard := by decide
theorem test_decode_reserved : decode 0x00008001 = .illegal .reservedBits := by decide
theorem test_decode_undefined : decode 0x00000007 = .illegal .undefinedOp := by decide
theorem test_decode_zero : decode 0x00000000 = .illegal .undefinedOp := by decide
theorem test_decode_stray : decode 0x00000101 = .illegal .strayCount := by decide
theorem test_decode_long : decode 0x00004102 = .illegal .longUpdate := by decide
theorem test_table_word : decodeTableWord 32 0x00001005 = some (.seed 16) := by decide

/-! ## Compression (V10, V12, V13, V15, V16) -/

theorem test_rotl : rotl 0x12345678 11 = 0xa2b3c091 := by decide
theorem test_roundF : roundF 0xffffffff 0x12345678 0x9abcdef0 = 0x12345678 := by decide
theorem test_roundG : roundG 0x00000000 0x12345678 0x9abcdef0 = 0x12345670 := by decide
theorem test_roundH : roundH 0xffffffff 0x12345678 0x9abcdef0 = 0x77777777 := by decide
theorem test_compress_zero :
    compress Quad.zero (List.replicate 64 0) = ⟨0x33c84836, 0xc19152d1, 0xe762d9df, 0xa20027bd⟩ := by decide +kernel
theorem test_compress_ones :
    compress Config.iv (List.replicate 64 0xff) = ⟨0xb05a96ab, 0xc389b094, 0x0159ce0f, 0xb49638ed⟩ := by decide +kernel
theorem test_md4_alphabet :
    md4Words (ascii "abcdefghijklmnopqrstuvwxyz") = parse
      [0xd7, 0x9e, 0x1c, 0x30, 0x8a, 0xa5, 0xbb, 0xcd, 0xee, 0xa8, 0xed, 0x63, 0xdf, 0x41, 0x2d, 0xa9] := by decide +kernel
theorem test_serialize : serialize abcDigest =
    [0xa4, 0x48, 0x01, 0x7a, 0xaf, 0x21, 0xd8, 0x52, 0x5f, 0xc1, 0x0a, 0xe8, 0x7a, 0xa6, 0x72, 0x9d] := by decide

/-! ## Padding (V20) -/

theorem test_padding_55 : paddingFor 55 = [0x80, 0xb8, 0x01, 0, 0, 0, 0, 0, 0] := by decide
theorem test_padding_max : (paddingFor (2 ^ 61 - 1)).drop 57 = [0xf8, 0xff, 0xff, 0xff, 0xff, 0xff, 0xff, 0xff] := by
  decide

/-! ## Commands: the examples of their rules and V21, V30, V31, V40 -/

theorem test_init_result : started.result = 0x0100 ∧ started.cv = Config.iv := by decide
theorem test_update_counts : abcFed.count = 3 ∧ abcFed.buf = ascii "abc" ∧ abcFed.result = 0x0200 := by decide
theorem test_final_digest : abcDone.digest = abcDigest ∧ abcDone.result = 0x0300 := by decide +kernel
theorem test_final_twice : (endOf (exec .final abcDone)).result = 0x0324 := by decide
theorem test_update_idle : (endOf (exec (.update 3) State.reset)).result = 0x0214 := by decide
theorem test_final_two_blocks :
    (endOf (exec .final { started with buf := List.replicate 56 0x61, count := 56 })).digest
      = ⟨0xe9a9f9d5, 0xa5777025, 0x920b8bf0, 0xadb048f3⟩ := by decide +kernel
theorem test_discard_clears : (endOf (exec .discard abcFed)).cv = Quad.zero := by decide
theorem test_pad_56 : (endOf (exec .pad (withLen 56 State.reset))).padOut
    = #v[0x80, 0, 0, 0, 0, 0, 0, 0, 0, 0, 0, 0, 0, 0, 0, 0, 0x1c0, 0] := by decide
theorem test_pad_negative :
    (endOf (exec .pad (withLen 0xffffffffffffffff State.reset))).result = 0x0413 := by decide
theorem test_seed_loads :
    (endOf (exec (.seed 16) seedLoaded)).cv = abcDigest ∧ (endOf (exec (.seed 16) seedLoaded)).count = 64 := by decide
theorem test_seed_overflow :
    (endOf (exec (.seed 16) (withLen 0x1fffffffffffffb8 State.reset))).result = 0x0525 := by decide

/-! ## The bus (V51), the status word (V30, P4) and the step -/

theorem test_status_finalized : peek abcDone .status = 0x42 := by decide
theorem test_unmapped_read_sets_buserr : (busRead 4 0x04C State.reset).busErr = true := by decide
theorem test_misaligned_write_sets_buserr : (busWrite 4 0x006 1 State.reset).busErr = true := by decide
theorem test_byte_read_sets_buserr : (busRead 1 0x080 State.reset).busErr = true := by decide
theorem test_write_msg_while_busy :
    (busWrite 4 0x080 7 { State.reset with latch := some 1 }).ovr = true := by decide
theorem test_busy_buf_len_reserved_bits (s : State) (h : s.busy = true) :
    (readValue s .bufLen).toNat ≤ 63 := by
  simp only [readValue, drawsFree, h]
  exact Nat.le_trans Nat.and_le_right (by decide)
theorem test_map_irq_en : accessReg 4 0x010 = some .irqEn ∧ accessReg 4 0x048 = some .padOutLen := by decide
/-- 43_forge R186: a RESULT of InvalidLength stops the procedure, and a RESULT of success does not. -/
theorem test_forge_stops_on_error : hostForgeBranch 0 [] 0x00000513 = .error 0x00000513
    ∧ hostForge 0 [] 3 [] 0x00000513 = hostForgeSeed 0 [] 3 := by
  exact ⟨rfl, by simp [hostForge, hostForgeBranch]⟩
theorem test_forge_goes_on : hostForgeBranch 0 [] 0x00000500 = .ok (hostForgeReplay 0 []) := rfl
theorem test_id_reads : (busRead 4 0x000 State.reset).answers = [.read 0x4D443401 .okay] := by decide
theorem test_step_runs_word : (endOf (step (State.reset.withFetchWord 32 1))).cv = Config.iv := by decide
theorem test_step_illegal_word : (endOf (step (State.reset.withFetchWord 32 0xff))).result = 0xff26 := by decide

/-! ## Witnesses: states and operands that meet the hypotheses of the statements, clause by clause -/

theorem exec_endOf (i : Instr) (s : State) : exec i s = .next (endOf (exec i s)) := by
  cases i with
  | init => rfl
  | discard => rfl
  | update n => simp only [exec, execUpdate]; split <;> simp only [endOf]
  | final => simp only [exec, execFinal]; split <;> simp only [endOf]
  | pad => simp only [exec, execPad]; split <;> simp only [endOf]
  | seed n => simp only [exec, execSeed]; split <;> simp only [endOf]

theorem turn_endOf (s : State) : engineTurn s = .next (endOf (engineTurn s)) := by
  simp only [engineTurn]
  split
  · simp only [endOf]
  · split
    · simp only [endOf]
    · exact exec_endOf _ s

theorem step_endOf (s : State) : step s = .next (endOf (step s)) := by
  simp only [step, nextTransition]
  split
  · exact turn_endOf s
  · rename_i e rest _
    cases e with
    | access a => simp only [applyEvent, endOf]
    | reset => simp only [applyEvent, endOf]
    | engine => exact turn_endOf _

/-- A pending word, the engine's turn next. -/
def pending (c : Word) (s : State) : State := { s with latch := some c, agenda := [.engine] }

/-- An active session of `count` bytes "a" that fit one block. -/
def fedWith (count : Nat) : State :=
  { started with buf := List.replicate count 0x61, count := BitVec.ofNat 64 count }

/-- The session of V32 at MAXLEN - 63. -/
def nearMaxlen : State := { started with count := 0x1fffffffffffffc0 }

/-- EveryStepKeepsInvariant, FinalCompressesOneOrTwoBlocks, RegistersShowTheState. -/
theorem witness_inv_55 : (fedWith 55).Inv := by constructor <;> decide
theorem witness_inv_56 : (fedWith 56).Inv := by constructor <;> decide
theorem witness_inv_fed_step : State.Inv abcFed ∧ step abcFed = .next (endOf (step abcFed)) :=
  ⟨by constructor <;> decide, step_endOf _⟩
theorem witness_final_sides : (fedWith 55).session = .active ∧ (fedWith 55).count.toNat % 64 ≤ 55
    ∧ (fedWith 56).session = .active ∧ 56 ≤ (fedWith 56).count.toNat % 64 := by decide
/-- DiscardClearsTheSession. -/
theorem witness_discard_idle : State.reset.Inv ∧ State.reset.session = .idle := ⟨by constructor <;> decide, rfl⟩
/-- DecodeOfEncodeIsTheCommand, HostRunCompletesItsCommand. -/
theorem witness_well_formed : (Instr.update 64).WellFormed ∧ Instr.init.WellFormed ∧ (Instr.seed 15).WellFormed := by
  decide
/-- IllegalWordFailsWithItsInfo, FirstFailureIsReported, FailuresArePrecise: each row of R85, and a legal word. -/
theorem witness_illegal_rows : (pending 0x80000003 State.reset).latch = some 0x80000003
    ∧ [0x80000003, 0x000000ff, 0x00000101, 0x00004102, 0x00004002].map illegalInfoOf = [1, 2, 3, 4, 0] := by decide
/-- FirstFailureIsReported: each failure of R206, at its boundary (V31, V32, V40). -/
theorem witness_first_failures :
    [firstFailureOf 0x00000302 State.reset, firstFailureOf 0x00000003 { State.reset with session := .finalized },
     firstFailureOf 0x00000f05 (withLen 0xffffffffffffffff State.reset),
     firstFailureOf 0x00001005 (withLen 0xffffffffffffffff State.reset),
     firstFailureOf 0x00000004 (withLen 0x2000000000000000 State.reset),
     firstFailureOf 0x00004002 nearMaxlen, firstFailureOf 0x00003f02 nearMaxlen,
     firstFailureOf 0x00001005 (withLen 0x1fffffffffffffb8 State.reset),
     firstFailureOf 0x00001005 (withLen 0x1fffffffffffffb7 State.reset)]
      = [(4, 1), (4, 2), (2, 1), (3, 1), (3, 2), (5, 1), (0, 0), (5, 2), (0, 0)] := by decide
/-- FailuresArePrecise: both clauses. -/
theorem witness_precise : engineTurn (pending 0x00000302 State.reset)
      = .next (endOf (engineTurn (pending 0x00000302 State.reset)))
    ∧ resultCode (endOf (engineTurn (pending 0x00000302 State.reset))).result ≠ 0
    ∧ resultCode (endOf (engineTurn (pending 0x00000001 State.reset))).result = 0 :=
  ⟨turn_endOf _, by decide, by decide⟩
/-- StepRunsTheLatchedCommand: both clauses. -/
theorem witness_latched : decode 0x00000001 = .command .init ∧ (pending 1 State.reset).agenda = [.engine]
    ∧ ({ State.reset with latch := some 1 } : State).agenda = [] := by decide
/-- StepTakesTheNextTransition: each clause. -/
theorem witness_agendas : ({ State.reset with agenda := [.reset] } : State).agenda = [.reset]
    ∧ ({ State.reset with agenda := [hostClr] } : State).agenda = [.access (.write 4 0x008 0x1E)]
    ∧ ({ State.reset with agenda := [.engine] } : State).busy = false ∧ State.reset.agenda = [] := by decide
/-- PendingCommandEventuallyRuns. -/
theorem witness_pending : Event.reset ∉ ({ State.reset with latch := some 1, agenda := hostWait 2 } : State).agenda := by
  decide
/-- UpdateAbsorbsTheFirstBytes: both clauses, and the largest count. -/
theorem witness_update : (3 : BitVec 7).toNat ≤ 64 ∧ abcLoaded.session = .active ∧ abcLoaded.buf.length + 3 < 64
    ∧ (fedWith 63).session = .active ∧ (fedWith 63).buf.length < 64 ∧ 64 ≤ (fedWith 63).buf.length + 64
    ∧ nearMaxlen.count.toNat + 63 = 2 ^ 61 - 1 := by decide
/-- UpdateFailsOutsideItsConditions, FinalFailsOutsideASession: each clause. -/
theorem witness_update_fails : State.reset.session = .idle ∧ abcDone.session = .finalized
    ∧ nearMaxlen.session = .active ∧ 2 ^ 61 - 1 < nearMaxlen.count.toNat + (64 : BitVec 7).toNat := by decide
/-- UpdateReadsNoByteBeyondN: two inputs that agree on byte 0 to 2 only. -/
theorem witness_noread : (∀ k < (3 : BitVec 7).toNat,
      msgByte abcLoaded k = msgByte { abcLoaded with msgIn := Vector.replicate 16 0xff636261 } k)
    ∧ exec (.update 3) abcLoaded = .next abcFed := ⟨by decide, exec_endOf _ _⟩
/-- PaddingBytesAreMarkerZerosLength, PadWritesThePadding: the largest length. -/
theorem witness_pad_max : (lenOperand (withLen 0x1fffffffffffffff State.reset)).toNat = 2 ^ 61 - 1 := by decide
/-- PadFailsOnAnInvalidLength: each clause, at its boundary. -/
theorem witness_pad_fails : (lenOperand (withLen 0x8000000000000000 State.reset)).toInt < 0
    ∧ 2 ^ 61 - 1 < (lenOperand (withLen 0x2000000000000000 State.reset)).toInt
    ∧ 2 ^ 61 - 1 < (lenOperand (withLen 0x7fffffffffffffff State.reset)).toInt := by decide
/-- PadDependsOnLengthOnly: two states of one length operand. -/
theorem witness_pad_only : (withLen 56 State.reset).lenLo = (withLen 56 abcDone).lenLo
    ∧ exec .pad (withLen 56 State.reset) = .next (endOf (exec .pad (withLen 56 State.reset)))
    ∧ exec .pad (withLen 56 abcDone) = .next (endOf (exec .pad (withLen 56 abcDone))) :=
  ⟨by decide, exec_endOf _ _, exec_endOf _ _⟩
/-- SeedLoadsDigestAndGlue, SeedAcceptsUpToTheLargestLength: the largest length (V40). -/
theorem witness_seed_max : (lenOperand (withLen 0x1fffffffffffffb7 State.reset)).toNat = 2 ^ 61 - 73
    ∧ (2 ^ 61 - 73) + (paddingFor (2 ^ 61 - 73)).length ≤ 2 ^ 61 - 1
    ∧ exec (.seed 16) seedLoaded = .next (endOf (exec (.seed 16) seedLoaded)) := ⟨by decide, by decide, exec_endOf _ _⟩
/-- SeedFailsInOrder: each clause, at its boundary (V40). -/
theorem witness_seed_fails : (15 : BitVec 7).toNat ≠ 16
    ∧ (lenOperand (withLen 0xffffffffffffffff State.reset)).toInt < 0
    ∧ 2 ^ 61 - 1 < (lenOperand (withLen 0x2000000000000000 State.reset)).toInt
    ∧ 0 ≤ (lenOperand (withLen 0x1fffffffffffffb8 State.reset)).toInt
    ∧ 2 ^ 61 - 1 < 0x1fffffffffffffb8 + (paddingFor 0x1fffffffffffffb8).length := by decide
/-- SessionTransitionsFollowTheTable: an UPDATE and a FINAL that succeed, and one that fails. -/
theorem witness_transitions : resultCode abcFed.result = 0 ∧ resultCode abcDone.result = 0
    ∧ resultCode (endOf (exec .final abcDone)).result ≠ 0 ∧ abcDone.session ≠ .active := by decide
/-- CmdWriteIsAcceptedWhenIdle, BusyWritesAreDropped, BusyResultReadsAreFree, ExactReads: both values of BUSY. -/
theorem witness_busy : State.reset.busy = false ∧ (pending 1 State.reset).busy = true
    ∧ Reg.cvA ∈ [Reg.result, .bufLen, .countLo, .countHi, .cvA, .cvB, .cvC, .cvD, .digest0, .digest1, .digest2,
        .digest3, .padOutLen] := by decide
/-- ReadOnlyWritesAreIgnored. -/
theorem witness_read_only : Reg.cvA.lockedWhileBusy = false ∧ Reg.cvA ≠ .status ∧ Reg.cvA ≠ .irqEn
    ∧ (Reg.padOut 17).lockedWhileBusy = false := by decide
/-- RejectedAccessOnlySetsBusErr, EveryMappedOffsetIsOneRegister: the edges of the map (V51). -/
theorem witness_map_edges : (accessReg 4 0x048).isSome ∧ accessReg 4 0x04C = none ∧ accessReg 4 0x07C = none
    ∧ (accessReg 4 0x080).isSome ∧ (accessReg 4 0x104).isSome ∧ accessReg 4 0x108 = none
    ∧ accessReg 4 0x1FC = none ∧ accessReg 4 0x006 = none ∧ accessReg 1 0x080 = none := by decide
/-- A state with every sticky flag set, about to clear them (`clr`). -/
def flagged : State := { State.reset with err := true, ovr := true, busErr := true, agenda := [hostClr] }
/-- StickyFlagsFallOnlyByHostOrReset: each clause. -/
theorem witness_sticky : step flagged = .next (endOf (step flagged)) ∧ (endOf (step flagged)).err = false
    ∧ (endOf (step flagged)).ovr = false ∧ (endOf (step flagged)).busErr = false :=
  ⟨step_endOf _, by decide, by decide, by decide⟩
/-- ResultAndBusyChangeOnlyAtTheirEvents: each clause. -/
theorem witness_result_busy : (endOf (step (pending 1 State.reset))).result ≠ (pending 1 State.reset).result
    ∧ (endOf (step (pending 1 State.reset))).busy = false
    ∧ (endOf (step { State.reset with agenda := [hostCmd .init] })).busy = true := by decide
/-- DigestIsWrittenByFinalOnly. -/
theorem witness_digest : step (pending 3 abcFed) = .next (endOf (step (pending 3 abcFed)))
    ∧ (endOf (step (pending 3 abcFed))).digest ≠ abcFed.digest := ⟨step_endOf _, by decide +kernel⟩
/-- ChainingStateChangesOnlyByItsCommands: INIT, and an UPDATE that completes a block. -/
theorem witness_cv : (endOf (step (pending 1 State.reset))).cv ≠ State.reset.cv
    ∧ (endOf (step (pending 0x00004002 started))).cv ≠ started.cv := ⟨by decide, by decide +kernel⟩
/-- ParseInvertsSerialize, HexCodecRoundTrip. -/
theorem witness_sixteen : (serialize abcDigest).length = 16 ∧ ("g".toList).length ≠ 32 := by decide
/-- ChunkingDoesNotMatter, SessionComputesMd4: "abc" is fed by one UPDATE 3. -/
theorem witness_feeds : Feeds (ascii "abc") started abcFed := by
  have h : msgBytes abcLoaded (3 : BitVec 7).toNat ++ [] = ascii "abc" := by decide
  rw [← h]
  exact .update ⟨rfl, rfl, rfl, rfl⟩ (by decide) (exec_endOf _ _) (by decide) (.stop ⟨rfl, rfl, rfl, rfl⟩)
/-- ForgeryIsCorrect: the empty message, its digest in MSG_IN and length 0 (V40, second row). -/
theorem witness_forgery : msgBytes (withLen 0 (withMsg 0xe0cfd631 0x31e96ad1 0xd7593cb7 0xc089c0e0 State.reset)) 16
      = md4 [] ∧ ([] ++ paddingFor 0 ++ ascii "xyz").length ≤ 2 ^ 61 - 1 := ⟨by decide +kernel, by decide⟩
/-- HostRunCompletesItsCommand. -/
theorem witness_host_run : ({ State.reset with agenda := hostRun 2 .init } : State).busy = false
    ∧ ({ State.reset with agenda := hostRun 2 .init } : State).agenda = hostRun 2 .init ++ [] := by decide
/-- InstancesCommute: a system of two instances, an access to one and the engine's turn of the other. -/
theorem witness_instances : (0 : Nat) ≠ 1
    ∧ System.deliver 0 (hostCmd .init) ⟨[State.reset, pending 1 State.reset]⟩
      = .next ⟨[busAccess (.write 4 0x004 1) State.reset, pending 1 State.reset]⟩ := ⟨by decide, rfl⟩

end Sys2Proof.Machine.Tests
end

section
/-! SUPPORT. What a command that succeeds has done, and what one step can do, each said once. -/

namespace Sys2Proof.Machine

variable {s t u : State} {i : Instr}

/-- What a command that succeeds does to the state before it completes: one constructor per command, its fields the
conditions that hold (40_session, 42_padding R163, 43_forge R184). -/
inductive Effect : Instr → State → State → Prop where
  | init {s : State} : Effect .init s (loadSession Config.iv 0 .active s)
  | update {s : State} {n : BitVec 7} (active : s.session = .active)
      (fits : s.count.toNat + n.toNat ≤ Config.maxLen) :
      Effect (.update n) s (absorbInto (msgBytes s n.toNat) (addCount n.toNat s))
  | final {s : State} (active : s.session = .active) :
      Effect .final s (emitDigest (absorbInto (paddingFor s.count.toNat) s))
  | pad {s : State} (valid : (lenOperand s).toNat ≤ Config.maxLen) :
      Effect .pad s (writePadding (paddingFor (lenOperand s).toNat) s)
  | seed {s : State} {n : BitVec 7}
      (fits : (lenOperand s).toNat + (paddingFor (lenOperand s).toNat).length ≤ Config.maxLen) :
      Effect (.seed n) s (writePadding (paddingFor (lenOperand s).toNat)
        (loadSession (parse (msgBytes s 16)) ((lenOperand s).toNat + (paddingFor (lenOperand s).toNat).length)
          .active s))
  | discard {s : State} : Effect .discard s (loadSession Quad.zero 0 .idle s)

/-- A command fails precisely, or completes after its effect. -/
theorem exec_outcome (h : exec i s = .next t) :
    (∃ f, t = completeFail i.opcode f s) ∨ ∃ u, Effect i s u ∧ t = completeOk i.opcode u := by
  rcases exec_cases i s with ⟨f, hf⟩ | ⟨u, hu, -, -, body⟩
  · rw [hf] at h
    cases h
    exact .inl ⟨f, rfl⟩
  · rw [hu] at h
    cases h
    refine .inr ⟨u, ?_, rfl⟩
    cases i with
    | init => subst body; exact .init
    | update n => obtain ⟨active, fits, rfl⟩ := body; exact .update active fits
    | final => obtain ⟨active, rfl⟩ := body; exact .final active
    | pad => obtain ⟨valid, rfl⟩ := body; exact .pad valid
    | seed n => obtain ⟨fits, rfl⟩ := body; exact .seed fits
    | discard => subst body; exact .discard

/-- No command's effect touches ERR, OVR or BUSERR (10_state R29, R30, R31). -/
theorem Effect.flags (h : Effect i s u) : u.err = s.err ∧ u.ovr = s.ovr ∧ u.busErr = s.busErr := by
  cases h <;> simp

/-- Only FINAL writes DIGEST (10_state R38). -/
theorem Effect.digest_of_ne_final (h : Effect i s u) (hi : i ≠ .final) : u.digest = s.digest := by
  cases h <;> simp at hi ⊢

/-- The engine's turn: nothing with BUSY = 0, a failed completion, or a command that succeeds (60_exceptions R202). -/
theorem engineTurn_outcome (h : engineTurn s = .next t) :
    (s.latch = none ∧ t = s)
    ∨ (∃ c op f, s.latch = some c ∧ t = completeFail op f s)
    ∨ ∃ c i u, s.latch = some c ∧ decode c = .command i ∧ Effect i s u ∧ t = completeOk i.opcode u := by
  rcases engineTurn_cases _ _ h with idle | ⟨c, why, latch, -, rfl⟩ | ⟨c, i, latch, decoded, run⟩
  · exact .inl idle
  · exact .inr (.inl ⟨c, _, _, latch, rfl⟩)
  · rcases exec_outcome run with ⟨f, rfl⟩ | ⟨u, effect, rfl⟩
    · exact .inr (.inl ⟨c, _, f, latch, rfl⟩)
    · exact .inr (.inr ⟨c, i, u, latch, decoded, effect, rfl⟩)

/-- One step is a reset, a host access or the engine's turn, with what is left of the agenda. -/
theorem step_cases (h : step s = .next t) :
    (∃ rest, s.agenda = .reset :: rest ∧ t = resetEngine { s with agenda := rest })
    ∨ (∃ a rest, s.agenda = .access a :: rest ∧ t = busAccess a { s with agenda := rest })
    ∨ ∃ rest, engineTurn { s with agenda := rest } = .next t := by
  rcases nextTransition_cases _ _ h with ⟨a, rest, agenda, rfl⟩ | ⟨rest, agenda, rfl⟩ | ⟨rest, -, turn⟩ | ⟨-, turn⟩
  · exact .inr (.inl ⟨a, rest, agenda, rfl⟩)
  · exact .inl ⟨rest, agenda, rfl⟩
  · exact .inr (.inr ⟨rest, turn⟩)
  · exact .inr (.inr ⟨s.agenda, turn⟩)

/-- A host access changes no session, no output register and no RESULT (20_memory R66, 10_state R48). -/
theorem busAccess_frame (a : Access) (s : State) :
    SameSession s (busAccess a s) ∧ SameDigest s (busAccess a s) ∧ SamePadOut s (busAccess a s)
      ∧ (busAccess a s).result = s.result := by
  obtain ⟨x, u, hx, hu⟩ := busAccess_cases a s
  rw [hx]
  rcases hu with rfl | ⟨_, rfl⟩ | ⟨_, rfl⟩ | ⟨_, _, _, rfl⟩ | ⟨_, _, rfl⟩ | ⟨_, rfl⟩ | ⟨_, _, _, _, rfl⟩
  all_goals exact ⟨⟨rfl, rfl, rfl, rfl⟩, rfl, ⟨rfl, rfl⟩, rfl⟩

/-- A host access leaves the latch and sets no DONE, unless it is an accepted write to CMD (60_exceptions R200). -/
theorem busAccess_latch (a : Access) (s : State) :
    (∃ c, a = .write 4 0x004 c ∧ s.busy = false ∧ (busAccess a s).latch = some c ∧ (busAccess a s).done = false)
    ∨ ((busAccess a s).latch = s.latch ∧ ((busAccess a s).done = true → s.done = true)) := by
  obtain ⟨x, u, hx, hu⟩ := busAccess_cases a s
  rw [hx]
  rcases hu with rfl | ⟨_, rfl⟩ | ⟨_, rfl⟩ | ⟨c, ha, hb, rfl⟩ | ⟨_, _, rfl⟩ | ⟨_, rfl⟩ | ⟨_, _, _, _, rfl⟩
  case inr.inr.inr.inl => exact .inl ⟨c, ha, hb, rfl, rfl⟩
  all_goals exact .inr ⟨rfl, by simp +contextual⟩

/-- A host access clears a sticky flag by a write to STATUS alone, with a 1 in the flag's bit (10_state R26). -/
theorem busAccess_sticky (a : Access) (s : State) :
    (∃ v, a = .write 4 0x008 v ∧ (busAccess a s).err = (s.err && !v.getLsbD 2)
      ∧ (busAccess a s).ovr = (s.ovr && !v.getLsbD 3) ∧ (busAccess a s).busErr = (s.busErr && !v.getLsbD 4))
    ∨ ((s.err = true → (busAccess a s).err = true) ∧ (s.ovr = true → (busAccess a s).ovr = true)
      ∧ (s.busErr = true → (busAccess a s).busErr = true)) := by
  obtain ⟨x, u, hx, hu⟩ := busAccess_cases a s
  rw [hx]
  rcases hu with rfl | ⟨_, rfl⟩ | ⟨_, rfl⟩ | ⟨_, _, _, rfl⟩ | ⟨v, ha, rfl⟩ | ⟨_, rfl⟩ | ⟨_, _, _, _, rfl⟩
  case inr.inr.inr.inr.inl => exact .inl ⟨v, ha, rfl, rfl, rfl⟩
  all_goals exact .inr (by simp)

end Sys2Proof.Machine
end

section
/-! SUPPORT. The invariant of 10_state R45 in its parts, and that the effect of every command keeps them. -/

namespace Sys2Proof.Machine

variable {s t u : State} {i : Instr}

/-- The part of the invariant that speaks of the session: R45 items 1 to 4, and BUF_LEN below 64. -/
structure SessionInv (s : State) : Prop where
  countBounded : CountBounded s
  bufferPartial : BufferPartial s
  activeBuffer : ActiveBuffer s
  idleClear : IdleClear s
  finalizedDigest : FinalizedDigest s

/-- The part of the invariant that speaks of the padding window: R45 item 5, and the range of R40. -/
structure PadInv (s : State) : Prop where
  padTailZero : PadTailZero s
  padLengthLegal : PadLengthLegal s

theorem State.inv_iff : s.Inv ↔ SessionInv s ∧ PadInv s ∧ ResultCodeLegal s ∧ BusyNotDone s :=
  ⟨fun h => ⟨⟨h.1, h.2, h.3, h.4, h.5⟩, ⟨h.6, h.7⟩, h.8, h.9⟩,
    fun ⟨hs, hp, hr, hb⟩ => ⟨hs.1, hs.2, hs.3, hs.4, hs.5, hp.1, hp.2, hr, hb⟩⟩

theorem SessionInv.congr (h : SessionInv s) (same : SameSession s t) (digest : SameDigest s t) : SessionInv t := by
  obtain ⟨hcv, hbuf, hcount, hsession⟩ := same
  constructor
  · simpa [CountBounded, hcount] using h.countBounded
  · simpa [BufferPartial, hbuf] using h.bufferPartial
  · simpa [ActiveBuffer, hsession, hbuf, hcount] using h.activeBuffer
  · simpa [IdleClear, hsession, hcount, hbuf, hcv] using h.idleClear
  · simpa [FinalizedDigest, hsession, hbuf, hcv, digest] using h.finalizedDigest

theorem PadInv.congr (h : PadInv s) (same : SamePadOut s t) : PadInv t := by
  obtain ⟨hpad, hlen⟩ := same
  constructor
  · simpa [PadTailZero, hlen, padByte_congr hpad] using h.padTailZero
  · simpa [PadLengthLegal, hlen] using h.padLengthLegal

/-- An active session loaded with a count on a block boundary (INIT, SEED). -/
theorem sessionInv_loadSession_active (q : Quad) {n : Nat} (fits : n ≤ Config.maxLen) (whole : n % 64 = 0)
    (s : State) : SessionInv (loadSession q n .active s) := by
  have hM : Config.maxLen = 2 ^ 61 - 1 := rfl
  have hn : (BitVec.ofNat 64 n).toNat = n := by simp; omega
  constructor <;> simp [CountBounded, BufferPartial, ActiveBuffer, IdleClear, FinalizedDigest] <;> omega

theorem sessionInv_loadSession_idle (s : State) : SessionInv (loadSession Quad.zero 0 .idle s) := by
  constructor <;> simp [CountBounded, BufferPartial, ActiveBuffer, IdleClear, FinalizedDigest]

/-- Absorbing n bytes and counting them keeps BUF_LEN = COUNT mod 64 (R45 item 2, 40_session R103). -/
theorem SessionInv.absorb_counted (h : SessionInv s) (active : s.session = .active) {d : List Byte}
    (fits : s.count.toNat + d.length ≤ Config.maxLen) : SessionInv (absorbInto d (addCount d.length s)) := by
  have hM : Config.maxLen = 2 ^ 61 - 1 := rfl
  have len := h.activeBuffer active
  have buffered : (absorb ⟨s.cv, s.buf⟩ d).buf.length = (s.buf.length + d.length) % 64 :=
    absorb_buf_length _ d h.bufferPartial
  constructor <;> simp [CountBounded, BufferPartial, ActiveBuffer, IdleClear, FinalizedDigest, active] <;> omega

/-- Padding to the end of a block leaves the buffer empty (R45 item 4, 40_session R106). -/
theorem SessionInv.emit_padded (h : SessionInv s) (active : s.session = .active) :
    SessionInv (emitDigest (absorbInto (paddingFor s.count.toNat) s)) := by
  obtain ⟨-, -, whole⟩ := length_paddingFor_bounds s.count.toNat
  have len := h.activeBuffer active
  have empty : (absorb ⟨s.cv, s.buf⟩ (paddingFor s.count.toNat)).buf = [] := by
    rw [← List.length_eq_zero_iff, absorb_buf_length _ _ h.bufferPartial]
    show (s.buf.length + _) % 64 = 0
    omega
  constructor
  · exact h.countBounded
  all_goals simp [BufferPartial, ActiveBuffer, IdleClear, FinalizedDigest, empty]

theorem padInv_writePadding (L : Nat) (s : State) : PadInv (writePadding (paddingFor L) s) := by
  obtain ⟨lower, upper, -⟩ := length_paddingFor_bounds L
  have len : (BitVec.ofNat 7 (paddingFor L).length).toNat = (paddingFor L).length := by simp; omega
  constructor
  · intro k hk past
    rw [writePadding_padOutLen, len] at past
    rw [padByte_writePadding _ _ _ hk, List.getD_eq_default _ _ past]
  · right
    rw [writePadding_padOutLen, len]
    exact ⟨lower, upper⟩

theorem Effect.keeps_sessionInv (h : Effect i s u) (hs : SessionInv s) : SessionInv u := by
  cases h with
  | init => exact sessionInv_loadSession_active _ (by decide) rfl s
  | @update _ n active fits =>
    simpa using hs.absorb_counted active (d := msgBytes s n.toNat) (by simpa using fits)
  | final active => exact hs.emit_padded active
  | pad _ => exact hs.congr (by simp [SameSession]) (by simp [SameDigest])
  | seed fits =>
    obtain ⟨-, -, whole⟩ := length_paddingFor_bounds (lenOperand s).toNat
    exact (sessionInv_loadSession_active (parse (msgBytes s 16)) fits whole s).congr
      (by simp [SameSession]) (by simp [SameDigest])
  | discard => exact sessionInv_loadSession_idle s

theorem Effect.keeps_padInv (h : Effect i s u) (hp : PadInv s) : PadInv u := by
  cases h with
  | pad _ | seed _ => exact padInv_writePadding _ _
  | init | update | final | discard => exact hp.congr ⟨rfl, rfl⟩

/-- A failure's code is one of those 60_exceptions R201 lists. -/
theorem resultCodeLegal_completeFail (op : Byte) (f : Failure) (s : State) :
    ResultCodeLegal (completeFail op f s) := by
  cases f <;> simp [ResultCodeLegal, Failure.code]

theorem resultCodeLegal_completeOk (op : Byte) (s : State) : ResultCodeLegal (completeOk op s) := by
  simp [ResultCodeLegal]

/-- A completed command is not pending (10_state R28). -/
theorem busyNotDone_of_idle (h : s.busy = false) : BusyNotDone s := by
  simp [BusyNotDone, h]

theorem busAccess_busyNotDone (a : Access) (h : BusyNotDone s) : BusyNotDone (busAccess a s) := by
  rcases busAccess_latch a s with ⟨c, -, -, -, hd⟩ | ⟨hl, hd⟩
  · exact fun _ => hd
  · intro busy
    have before : s.done = false := h (by simpa [State.busy, hl] using busy)
    simpa [before] using hd

/-- The reset values meet each part of the invariant (10_state R46). -/
theorem inv_reset : State.reset.Inv := by
  refine State.inv_iff.mpr ⟨sessionInv_loadSession_idle State.reset, ⟨?_, .inl rfl⟩, ?_, busyNotDone_of_idle rfl⟩
  · simp only [PadTailZero]
    decide
  · decide

theorem inv_resetEngine (s : State) : (resetEngine s).Inv := by
  obtain ⟨hs, hp, hr, hb⟩ := State.inv_iff.mp inv_reset
  exact State.inv_iff.mpr ⟨hs.congr ⟨rfl, rfl, rfl, rfl⟩ rfl, hp.congr ⟨rfl, rfl⟩, hr, hb⟩

/-- Settles O2. -/
theorem resetStateMeetsInvariant : Obligations.ResetStateMeetsInvariant := inv_reset

/-- Settles O3, by the cases of a step: a host access and a failure leave session, digest and padding window alone,
and a command's effect keeps each part of the invariant. -/
theorem everyStepKeepsInvariant : Obligations.EveryStepKeepsInvariant := by
  intro s t inv h
  obtain ⟨hs, hp, hr, hb⟩ := State.inv_iff.mp inv
  have hs' (rest : List Event) : SessionInv { s with agenda := rest } := hs.congr ⟨rfl, rfl, rfl, rfl⟩ rfl
  have hp' (rest : List Event) : PadInv { s with agenda := rest } := hp.congr ⟨rfl, rfl⟩
  rcases step_cases h with ⟨rest, -, rfl⟩ | ⟨a, rest, -, rfl⟩ | ⟨rest, turn⟩
  · exact inv_resetEngine _
  · obtain ⟨session, digest, pad, result⟩ := busAccess_frame a { s with agenda := rest }
    exact State.inv_iff.mpr ⟨(hs' rest).congr session digest, (hp' rest).congr pad,
      by simpa [ResultCodeLegal, result] using hr, busAccess_busyNotDone a hb⟩
  · rcases engineTurn_outcome turn with ⟨-, rfl⟩ | ⟨c, op, f, -, rfl⟩ | ⟨c, i, u, -, -, effect, rfl⟩
    · exact State.inv_iff.mpr ⟨hs' rest, hp' rest, hr, hb⟩
    · exact State.inv_iff.mpr ⟨(hs' rest).congr ⟨rfl, rfl, rfl, rfl⟩ rfl, (hp' rest).congr ⟨rfl, rfl⟩,
        resultCodeLegal_completeFail .., busyNotDone_of_idle rfl⟩
    · exact State.inv_iff.mpr ⟨(effect.keeps_sessionInv (hs' rest)).congr ⟨rfl, rfl, rfl, rfl⟩ rfl,
        (effect.keeps_padInv (hp' rest)).congr ⟨rfl, rfl⟩, resultCodeLegal_completeOk .., busyNotDone_of_idle rfl⟩

end Sys2Proof.Machine
end

section
/-! The commands: their failures, their session transitions, what none of them touches (10_state R50, R52). -/

namespace Sys2Proof.Machine

variable {s t u : State} {i : Instr}

/-- Outside an active session the session check fails with code 4 (60_exceptions R201). -/
theorem sessionFailure_of_not_active (h : s.session ≠ .active) : ∃ f, sessionFailure s = some f ∧ f.code = 4 := by
  rcases sessionFailure_cases s with ⟨hf, -⟩ | ⟨hf, -⟩ | ⟨-, active⟩
  · exact ⟨_, hf, rfl⟩
  · exact ⟨_, hf, rfl⟩
  · exact absurd active h

/-- UPDATE's first check is the session's (40_session R103). -/
theorem updateFailure_of_sessionFailure {f : Failure} (h : sessionFailure s = some f) (n : BitVec 7) :
    updateFailure n s = some f := by
  simp [updateFailure, h]

/-- UPDATE and FINAL outside an active session fail with code 4 (10_state R50). -/
theorem exec_code_of_not_active (hs : s.session ≠ .active) (hi : i = .final ∨ ∃ n, i = .update n)
    (h : exec i s = .next t) : resultCode t.result = 4 := by
  obtain ⟨f, hf, code⟩ := sessionFailure_of_not_active hs
  rcases hi with rfl | ⟨n, rfl⟩
  · rw [exec_final_fail s hf] at h
    cases h
    simpa using code
  · rw [exec_update_fail s (updateFailure_of_sessionFailure hf n)] at h
    cases h
    simpa using code

/-- Settles O23, by the value of the length operand. -/
theorem padFailsOnAnInvalidLength : Obligations.PadFailsOnAnInvalidLength := by
  intro s
  obtain ⟨negative, nonneg⟩ := lenOperand_toInt s
  rcases lenVal_cases s with ⟨fails, size⟩ | ⟨fails, low, high⟩ | ⟨-, size⟩
  · exact ⟨fun _ => ⟨_, exec_pad_fail s fails, rfl⟩, fun long => by have := negative.mpr size; omega⟩
  · exact ⟨fun neg => by have := negative.mp neg; omega, fun _ => ⟨_, exec_pad_fail s fails, rfl⟩⟩
  · have := nonneg (by omega)
    exact ⟨fun neg => by omega, fun long => by omega⟩

/-- Settles O30, by how the command ends: a failure keeps the session and its code is not 0, a success has the
command's effect. -/
theorem sessionTransitionsFollowTheTable : Obligations.SessionTransitionsFollowTheTable := by
  intro i s t h
  refine ⟨?_, ?_, fun hs hi => exec_code_of_not_active hs hi h⟩
  · intro failed
    rcases exec_outcome h with ⟨f, rfl⟩ | ⟨u, -, rfl⟩
    · rfl
    · simp at failed
  · intro ok
    rcases exec_outcome h with ⟨f, rfl⟩ | ⟨u, effect, rfl⟩
    · exact absurd (by simpa using ok) (failure_code_ne_zero f)
    · cases effect with
      | init | pad _ | seed _ | discard => simp
      | update active _ => simp [active]
      | final active => simp [active]

/-- Settles O31, by the two ends of a command, of which neither writes the host's side. -/
theorem noCommandTouchesTheHostSide : Obligations.NoCommandTouchesTheHostSide := by
  intro i s
  rcases exec_cases i s with ⟨f, h⟩ | ⟨u, h, host, err, -⟩
  · exact ⟨_, h, by simp [SameHostSide], rfl, rfl, by simp, fun _ => rfl⟩
  · exact ⟨_, h, host, rfl, rfl, by simp, fun set => by simpa [err] using set⟩

end Sys2Proof.Machine
end

section
/-! Accesses to the register window (10_state R24 to R49). -/

namespace Sys2Proof.Machine

variable {s : State} {r : Reg}

/-- The bits of STATUS as the host reads them (10_state R26). -/
theorem getLsbD_peek_status (s : State) (b : Nat) :
    (peek s .status).getLsbD b
      = if b = 0 then s.busy else if b = 1 then s.done else if b = 2 then s.err else if b = 3 then s.ovr
        else if b = 4 then s.busErr else if b = 5 then s.session.code.getLsbD 0
        else if b = 6 then s.session.code.getLsbD 1 else false :=
  getLsbD_statusWith s s.session.code b

/-- Bits 31:7 of STATUS are 0 (10_state R26). -/
theorem getLsbD_peek_status_reserved (s : State) {b : Nat} (hb : 7 ≤ b) : (peek s .status).getLsbD b = false := by
  rw [getLsbD_peek_status]
  simp only [show b ≠ 0 by omega, show b ≠ 1 by omega, show b ≠ 2 by omega, show b ≠ 3 by omega,
    show b ≠ 4 by omega, show b ≠ 5 by omega, show b ≠ 6 by omega, if_false]

/-- No register shows the record of answers (log 6). -/
@[simp] theorem peek_answer (x : Answer) (s : State) (r : Reg) : peek (answer x s) r = peek s r := by
  cases r <;> rfl

/-- With BUSY = 0 a read-write register takes the word written (10_state R39, R41). -/
theorem writeReg_lenLo (v : Word) (idle : s.busy = false) : writeReg .lenLo v s = { s with lenLo := v } := by
  simp [writeReg, idle]

theorem writeReg_lenHi (v : Word) (idle : s.busy = false) : writeReg .lenHi v s = { s with lenHi := v } := by
  simp [writeReg, idle]

theorem writeReg_msgIn (k : Fin 16) (v : Word) (idle : s.busy = false) :
    writeReg (.msgIn k) v s = { s with msgIn := s.msgIn.set k.val v } := by
  simp [writeReg, idle]

/-- STATUS and IRQ_EN are never locked (70_reset R250). -/
theorem writeReg_irqEn (v : Word) (s : State) : writeReg .irqEn v s = writeIrqEn v s := by
  simp [writeReg, Reg.lockedWhileBusy]

theorem writeReg_status (v : Word) (s : State) : writeReg .status v s = writeStatus v s := by
  simp [writeReg, Reg.lockedWhileBusy]

/-- A read-only register ignores its write (10_state R48). -/
theorem writeReg_readOnly (v : Word) (s : State) (unlocked : r.lockedWhileBusy = false) (hs : r ≠ .status)
    (hi : r ≠ .irqEn) : writeReg r v s = s := by
  cases r <;> simp [writeReg, Reg.lockedWhileBusy] at *

/-- Settles O34, bit by bit. -/
theorem statusWriteClearsOnes : Obligations.StatusWriteClearsOnes := by
  intro s v
  refine ⟨_, hostWr_eq .status v s, ?_, ?_, ?_⟩
  · intro b
    rw [writeReg_status, peek_answer, getLsbD_peek_status, getLsbD_peek_status]
    simp only [writeStatus_busy, writeStatus_done, writeStatus_err, writeStatus_ovr, writeStatus_busErr,
      writeStatus_session]
    by_cases clearable : b ∈ [1, 2, 3, 4]
    · simp only [List.mem_cons, List.not_mem_nil, or_false] at clearable
      rcases clearable with rfl | rfl | rfl | rfl <;> simp
    · simp only [clearable, decide_false, Bool.false_and, Bool.not_false, Bool.and_true]
      simp only [List.mem_cons, List.not_mem_nil, or_false, not_or] at clearable
      obtain ⟨h1, h2, h3, h4⟩ := clearable
      simp only [h1, h2, h3, h4, if_false]
  · exact fun b hb => getLsbD_peek_status_reserved _ hb
  · rw [writeReg_status]
    rfl

/-- Settles O35: the write reaches a register that ignores it. -/
theorem readOnlyWritesAreIgnored : Obligations.ReadOnlyWritesAreIgnored := by
  intro s v r ⟨unlocked, hs, hi⟩
  rw [hostWr_eq, writeReg_readOnly v s unlocked hs hi]
  rfl

/-- The word of IRQ_EN, as a number (10_state R34). -/
theorem toNat_irqEnWord (s : State) : (irqEnWord s).toNat = s.doneIe.toNat + 2 * s.errIe.toNat := by
  unfold irqEnWord
  cases s.doneIe <;> cases s.errIe <;> rfl

/-- IRQ_EN keeps bits 1:0 of the word written (10_state R34). -/
theorem irqEnWord_writeIrqEn (v : Word) (s : State) : irqEnWord (writeIrqEn v s) = v &&& 3 := by
  apply BitVec.eq_of_getLsbD_eq
  intro b hb
  have low : (3 : Word).getLsbD b = decide (b < 2) := by revert b; decide
  rw [BitVec.getLsbD_and, low]
  simp only [irqEnWord, writeIrqEn_doneIe, writeIrqEn_errIe, BitVec.getLsbD_append, BitVec.getLsbD_ofBool]
  obtain rfl | rfl | high : b = 0 ∨ b = 1 ∨ 2 ≤ b := by omega
  · simp
  · simp
  · simp [show ¬ b < 1 by omega, show ¬ b - 1 < 1 by omega, show ¬ b < 2 by omega]

/-- Writing one word of MSG_IN leaves the others (10_state R41). -/
theorem peek_msgIn_set (k : Fin 16) (v : Word) (s : State) {q : Reg} (hq : q ≠ .msgIn k) :
    peek { s with msgIn := s.msgIn.set k.val v } q = peek s q := by
  cases q with
  | msgIn j =>
    have apart : k.val ≠ j.val := fun h => hq (by rw [Fin.ext h])
    simp [peek, Vector.getElem_set_ne, apart]
  | _ => rfl

/-- Settles O36, register by register. -/
theorem readWriteRegistersHoldTheirValue : Obligations.ReadWriteRegistersHoldTheirValue := by
  intro s v r idle hr
  refine ⟨_, hostWr_eq r v s, ?_⟩
  simp only [peek_answer, answer_latch, SameSession, answer_cv, answer_buf, answer_count, answer_session]
  rcases hr with rfl | rfl | rfl | ⟨k, rfl⟩
  · rw [writeReg_lenLo v idle]
    refine ⟨rfl, fun q hq => ?_, ⟨rfl, rfl, rfl, rfl⟩, rfl⟩
    cases q with
    | lenLo => exact absurd rfl hq
    | _ => rfl
  · rw [writeReg_lenHi v idle]
    refine ⟨rfl, fun q hq => ?_, ⟨rfl, rfl, rfl, rfl⟩, rfl⟩
    cases q with
    | lenHi => exact absurd rfl hq
    | _ => rfl
  · rw [writeReg_irqEn]
    refine ⟨irqEnWord_writeIrqEn v s, fun q hq => ?_, ⟨rfl, rfl, rfl, rfl⟩, rfl⟩
    cases q with
    | irqEn => exact absurd rfl hq
    | _ => rfl
  · rw [writeReg_msgIn k v idle]
    exact ⟨by simp [peek], fun q hq => peek_msgIn_set k v s hq, ⟨rfl, rfl, rfl, rfl⟩, rfl⟩

/-- An offset of R46 is a multiple of 4 outside the unmapped ranges of R47. -/
theorem offset_mapped (r : Reg) :
    r.offset % 4 = 0 ∧ (r.offset < 0x04C ∨ (0x080 ≤ r.offset ∧ r.offset < 0x108)) := by
  cases r with
  | msgIn k => simp only [Reg.offset]; omega
  | padOut k => simp only [Reg.offset]; omega
  | _ => decide

/-- Every mapped offset is a register's (10_state R46, R47). -/
theorem exists_offset {off : Nat} (aligned : off % 4 = 0) (mapped : off < 0x04C ∨ (0x080 ≤ off ∧ off < 0x108)) :
    ∃ r : Reg, r.offset = off := by
  have table : ∀ k < 19, ∃ r ∈ allRegs, r.offset = 4 * k := by decide
  obtain low | msg | pad : off < 0x04C ∨ (0x080 ≤ off ∧ off < 0x0C0) ∨ (0x0C0 ≤ off ∧ off < 0x108) := by omega
  · obtain ⟨r, -, hr⟩ := table (off / 4) (by omega)
    exact ⟨r, by omega⟩
  · exact ⟨.msgIn ⟨(off - 0x080) / 4, by omega⟩, by simp only [Reg.offset]; omega⟩
  · exact ⟨.padOut ⟨(off - 0x0C0) / 4, by omega⟩, by simp only [Reg.offset]; omega⟩

/-- No two registers share an offset. -/
theorem offset_injective : Function.Injective Reg.offset := fun q r h =>
  Option.some.inj (by rw [← regAt_offset q, h, regAt_offset r])

/-- Settles O38: every mapped offset has a register, offsets are injective, and no other offset occurs. -/
theorem everyMappedOffsetIsOneRegister : Obligations.EveryMappedOffsetIsOneRegister := by
  refine ⟨rfl, fun _ => rfl, fun _ => rfl, accessReg_offset, fun off _ => ⟨?_, ?_⟩⟩
  · rintro ⟨aligned, mapped⟩
    obtain ⟨r, hr⟩ := exists_offset aligned mapped
    exact ⟨r, hr, fun q hq => offset_injective (hq.trans hr.symm)⟩
  · rintro unmapped r rfl
    have := offset_mapped r
    omega

/-- Reserved zeros above a field leave its number (10_state R33, R40). -/
theorem toNat_zero_append (n : Nat) {m : Nat} (x : BitVec m) : (0#n ++ x).toNat = x.toNat := by
  simp [BitVec.toNat_append]

/-- The two halves of a 64-bit register make its value (10_state R36, R39). -/
theorem toNat_halves (v : DWord) : (hiWord v).toNat * 2 ^ 32 + (loWord v).toNat = v.toNat := by
  have := v.isLt
  simp only [hiWord, loWord, BitVec.extractLsb'_toNat, Nat.shiftRight_eq_div_pow]
  omega

/-- COUNT bits 63:61 are 0 under the invariant (10_state R36). -/
theorem hiWord_lt (v : DWord) (h : v.toNat ≤ Config.maxLen) : (hiWord v).toNat < 2 ^ 29 := by
  have hM : Config.maxLen = 2 ^ 61 - 1 := rfl
  have := toNat_halves v
  omega

theorem toNat_lenOperand (s : State) : (lenOperand s).toNat = s.lenHi.toNat * 2 ^ 32 + s.lenLo.toNat := by
  have := s.lenLo.isLt
  rw [lenOperand, BitVec.toNat_append, Nat.shiftLeft_eq, Nat.mul_comm, ← Nat.two_pow_add_eq_or_of_lt this]

/-- Settles O39, word by word: the bits of STATUS, and the other registers as numbers. -/
theorem registersShowTheState : Obligations.RegistersShowTheState := by
  intro s
  have session : (peek s .status).extractLsb' 5 2 = s.session.code := by
    apply BitVec.eq_of_getLsbD_eq
    intro b hb
    rw [BitVec.getLsbD_extractLsb', getLsbD_peek_status]
    obtain rfl | rfl : b = 0 ∨ b = 1 := by omega
    · simp
    · simp
  refine ⟨rfl, rfl, ⟨?_, ?_, ?_, ?_, ?_, ?_, ?_⟩, ⟨rfl, rfl, rfl, rfl⟩, ?_, toNat_irqEnWord s, toNat_halves s.count,
    (toNat_lenOperand s).symm, ?_, fun inv => ?_⟩
  · exact getLsbD_peek_status s 0
  · exact getLsbD_peek_status s 1
  · exact getLsbD_peek_status s 2
  · exact getLsbD_peek_status s 3
  · exact getLsbD_peek_status s 4
  · rw [session]
    cases s.session <;> rfl
  · exact fun b hb => getLsbD_peek_status_reserved _ hb
  · exact toNat_zero_append 16 s.result
  · exact toNat_zero_append 25 s.padOutLen
  · have partially : s.buf.length < 64 := inv.bufferPartial
    have len : (peek s .bufLen).toNat = s.buf.length := by simp [peek]; omega
    exact ⟨len, by omega, hiWord_lt s.count inv.countBounded,
      inv.padLengthLegal.imp_left (congrArg BitVec.toNat)⟩

/-- Settles O40, by whether the access is rejected. -/
theorem readsHaveNoSideEffect : Obligations.ReadsHaveNoSideEffect := by
  intro s size off
  refine ⟨_, rfl, ?_⟩
  simp only [busAccess, busRead]
  cases accessReg size off with
  | none => exact ⟨rfl, by simp, rfl⟩
  | some r => exact ⟨rfl, by simp, rfl⟩

/-- A read that draws no free value is exact (10_state R48). -/
theorem readValue_exact (h : drawsFree s r = false) : readValue s r = peek s r := by
  simp [readValue, h]

/-- A read of STATUS is exact outside the field SESSION (10_state R49). -/
theorem getLsbD_readValue_status (s : State) {b : Nat} (h5 : b ≠ 5) (h6 : b ≠ 6) :
    (readValue s .status).getLsbD b = (peek s .status).getLsbD b := by
  cases free : drawsFree s .status with
  | false => rw [readValue_exact free]
  | true => simp [readValue, free, getLsbD_statusWith, getLsbD_peek_status, h5, h6]

/-- Settles O41: a read is exact where it draws nothing, and STATUS outside SESSION. -/
theorem exactReads : Obligations.ExactReads := by
  intro s r
  have exact_of (h : drawsFree s r = false) :
      readValue s r = peek s r ∧ (if drawsFree s r then s.draws + 1 else s.draws) = s.draws :=
    ⟨readValue_exact h, by simp [h]⟩
  refine ⟨_, _, hostRd_eq r s, rfl, fun idle => exact_of (by simp [drawsFree, idle]), fun hr => exact_of ?_, ?_⟩
  · rcases hr with rfl | rfl | rfl | rfl | rfl | ⟨k, rfl⟩ <;> simp [drawsFree, Reg.unspecifiedWhileBusy]
  · rintro rfl b h5 h6
    exact getLsbD_readValue_status s h5 h6

/-- The registers of R49 are those that read as unspecified while BUSY. -/
theorem unspecifiedWhileBusy_of_result (h : r ∈ [.result, .bufLen, .countLo, .countHi, .cvA, .cvB, .cvC, .cvD,
    .digest0, .digest1, .digest2, .digest3, .padOutLen] ∨ ∃ k, r = .padOut k) : r.unspecifiedWhileBusy = true := by
  rcases h with named | ⟨k, rfl⟩
  · revert r
    decide
  · rfl

/-- Every bit of a register but RESULT, BUF_LEN and PAD_OUT_LEN is free (93 U12). -/
theorem and_fieldMask_of_unreserved (x : Word) (hr : r ≠ .result) (hb : r ≠ .bufLen) (hp : r ≠ .padOutLen) :
    x &&& r.fieldMask = x := by
  have full : r.fieldMask = BitVec.allOnes 32 := by cases r <;> simp [Reg.fieldMask] at *
  rw [full, BitVec.and_allOnes]

/-- Settles O42, by the mask of the register's reserved bits. -/
theorem busyResultReadsAreFree : Obligations.BusyResultReadsAreFree := by
  intro s r busy hr
  have free := unspecifiedWhileBusy_of_result hr
  have draws : drawsFree s r = true := by simp [drawsFree, busy, free]
  refine ⟨_, freeWord s &&& r.fieldMask, hostRd_eq r s, ?_, ?_, ?_, ?_, ?_⟩
  · rw [readValue_free s r busy free, if_pos draws]
  · rintro rfl
    exact mask_result _
  · rintro rfl
    exact mask_bufLen _
  · rintro rfl
    exact mask_padOutLen _
  · exact and_fieldMask_of_unreserved _

end Sys2Proof.Machine
end

section
/-! What changes at which step: the sticky flags, RESULT, BUSY, DIGEST and the chaining state (10_state R22 to R38). -/

namespace Sys2Proof.Machine

/-- A word that decodes is the word of its command (30_encoding R84). -/
theorem encode_of_decode {c : Word} {i : Instr} (h : decode c = .command i) : encode i = c := by
  obtain ⟨hr, hn, -⟩ := fields_toNat c
  rcases decode_cases c with ⟨_, d⟩ | ⟨_, d⟩ | ⟨_, d⟩ | ⟨_, d⟩ | ⟨legal, _, d, _, -, count⟩ <;> rw [d] at h <;> cases h
  have reserved : c.toNat / 2 ^ 15 = 0 := by
    by_contra set
    rw [illegalInfoOf, if_pos set] at legal
    cases legal
  exact encode_of_fields (BitVec.eq_of_toNat_eq (hr.trans reserved)) (BitVec.eq_of_toNat_eq (hn.trans count))
    (opcode_of_decode d)

/-- A word in the latch is BUSY = 1 (10_state R27). -/
theorem busy_of_latch {s : State} {c : Word} (h : s.latch = some c) : s.busy = true := by
  simp [State.busy, h]

/-- Settles O45, by the cases of a step: no command clears a flag, and a host access does by a write to STATUS. -/
theorem stickyFlagsFallOnlyByHostOrReset : Obligations.StickyFlagsFallOnlyByHostOrReset := by
  intro s t h
  rcases step_cases h with ⟨rest, agenda, rfl⟩ | ⟨a, rest, agenda, rfl⟩ | ⟨rest, turn⟩
  · exact ⟨fun _ _ => .inl ⟨rest, agenda⟩, fun _ _ => .inl ⟨rest, agenda⟩, fun _ _ => .inl ⟨rest, agenda⟩⟩
  · rcases busAccess_sticky a { s with agenda := rest } with ⟨v, rfl, err, ovr, busErr⟩ | ⟨err, ovr, busErr⟩
    · refine ⟨fun set fell => ?_, fun set fell => ?_, fun set fell => ?_⟩
      · exact .inr ⟨v, rest, agenda, by simpa [set] using err.symm.trans fell⟩
      · exact .inr ⟨v, rest, agenda, by simpa [set] using ovr.symm.trans fell⟩
      · exact .inr ⟨v, rest, agenda, by simpa [set] using busErr.symm.trans fell⟩
    · exact ⟨fun set => by simp [err set], fun set => by simp [ovr set], fun set => by simp [busErr set]⟩
  · rcases engineTurn_outcome turn with ⟨-, rfl⟩ | ⟨c, op, f, -, rfl⟩ | ⟨c, i, u, -, -, effect, rfl⟩
    · simp +contextual
    · simp +contextual
    · obtain ⟨err, ovr, busErr⟩ := effect.flags
      simp +contextual [err, ovr, busErr]

/-- Settles O46, by the cases of a step: RESULT and the fall of BUSY are the completions', the rise is the host's. -/
theorem resultAndBusyChangeOnlyAtTheirEvents : Obligations.ResultAndBusyChangeOnlyAtTheirEvents := by
  intro s t h
  rcases step_cases h with ⟨rest, agenda, rfl⟩ | ⟨a, rest, agenda, rfl⟩ | ⟨rest, turn⟩
  · exact ⟨fun _ => .inl ⟨rest, agenda⟩, fun _ _ => .inl ⟨rest, agenda⟩, by simp⟩
  · obtain ⟨-, -, -, result⟩ := busAccess_frame a { s with agenda := rest }
    refine ⟨fun changed => absurd result changed, ?_⟩
    rcases busAccess_latch a { s with agenda := rest } with ⟨c, rfl, idle, accepted, done⟩ | ⟨same, -⟩
    · have before : s.busy = false := idle
      exact ⟨fun busy => absurd busy (by simp [before]), fun _ _ => ⟨c, rest, agenda, accepted, done⟩⟩
    · have unchanged : (busAccess a { s with agenda := rest }).busy = s.busy := congrArg Option.isSome same
      exact ⟨fun busy fell => absurd (unchanged.trans busy) (by simp [fell]),
        fun idle rose => absurd (unchanged.trans idle) (by simp [rose])⟩
  · rcases engineTurn_outcome turn with ⟨-, rfl⟩ | ⟨c, op, f, latch, rfl⟩ | ⟨c, i, u, latch, -, -, rfl⟩
    · exact ⟨fun changed => absurd rfl changed, fun busy fell => absurd (busy.symm.trans fell) (by decide),
        fun idle rose => absurd (idle.symm.trans rose) (by decide)⟩
    · exact ⟨fun _ => .inr ⟨busy_of_latch latch, rfl, rfl⟩, fun _ _ => .inr rfl, by simp⟩
    · exact ⟨fun _ => .inr ⟨busy_of_latch latch, rfl, rfl⟩, fun _ _ => .inr rfl, by simp⟩

/-- Settles O47, by the cases of a step: FINAL's effect alone writes DIGEST, and its one word is 0x00000003. -/
theorem digestIsWrittenByFinalOnly : Obligations.DigestIsWrittenByFinalOnly := by
  intro s t h changed
  rcases step_cases h with ⟨rest, agenda, rfl⟩ | ⟨a, rest, agenda, rfl⟩ | ⟨rest, turn⟩
  · exact .inl ⟨rest, agenda⟩
  · obtain ⟨-, digest, -⟩ := busAccess_frame a { s with agenda := rest }
    exact absurd digest changed
  · rcases engineTurn_outcome turn with ⟨-, rfl⟩ | ⟨c, op, f, -, rfl⟩ | ⟨c, i, u, latch, decoded, effect, rfl⟩
    · exact absurd rfl changed
    · exact absurd rfl changed
    · by_cases hi : i = .final
      · subst hi
        cases effect with
        | final active =>
          rw [← encode_of_decode decoded] at latch
          exact .inr ⟨latch, active, rfl, rfl, rfl⟩
      · exact absurd (effect.digest_of_ne_final hi) changed

/-- Settles O48, by the cases of a step: a change of the chaining state is the effect of a command that succeeds. -/
theorem chainingStateChangesOnlyByItsCommands : Obligations.ChainingStateChangesOnlyByItsCommands := by
  intro s t h changed
  rcases step_cases h with ⟨rest, agenda, rfl⟩ | ⟨a, rest, agenda, rfl⟩ | ⟨rest, turn⟩
  · exact .inl ⟨rest, agenda⟩
  · obtain ⟨⟨cv, -⟩, -⟩ := busAccess_frame a { s with agenda := rest }
    exact absurd cv changed
  · rcases engineTurn_outcome turn with ⟨-, rfl⟩ | ⟨c, op, f, -, rfl⟩ | ⟨c, i, u, latch, decoded, effect, rfl⟩
    · exact absurd rfl changed
    · exact absurd rfl changed
    · refine .inr ⟨c, i, latch, decoded, by simp, ?_⟩
      cases effect with
      | init => rfl
      | update active _ => exact ⟨active, by simp [msgBytes_congr (s := s)]⟩
      | final active => exact ⟨active, by simp⟩
      | pad _ => exact changed (by simp)
      | seed _ => simp [msgBytes_congr (s := s), parse_msgBytes]
      | discard => rfl

end Sys2Proof.Machine
end

section
/-! The agenda, the window and the instances (00_scope R12, 20_memory R62, R63, R69, R75). -/

namespace Sys2Proof.Machine

variable {s : State}

/-! ### The agenda -/

/-- A step takes the head of the agenda (20_memory R69). -/
theorem step_of_agenda_cons {e : Event} {rest : List Event} (h : s.agenda = e :: rest) :
    step s = applyEvent e { s with agenda := rest } := by
  simp only [step, nextTransition, h]

/-- With the agenda used up it is the engine's turn. -/
theorem step_of_agenda_nil (h : s.agenda = []) : step s = engineTurn s := by
  simp only [step, nextTransition, h]

/-- With BUSY = 0 the engine's turn changes nothing (60_exceptions R225). -/
theorem engineTurn_of_idle (idle : s.busy = false) : engineTurn s = .next s := by
  have latch : s.latch = none := by simpa [State.busy] using idle
  simp only [engineTurn, latch]

/-- Settles O9, by the head of the agenda. -/
theorem stepTakesTheNextTransition : Obligations.StepTakesTheNextTransition := by
  intro s
  refine ⟨fun a rest h => ?_, fun rest h => ?_, fun rest h idle => ?_, fun h idle => ?_⟩
  · rw [step_of_agenda_cons h]
    rfl
  · rw [step_of_agenda_cons h]
    rfl
  · rw [step_of_agenda_cons h]
    exact engineTurn_of_idle idle
  · rw [step_of_agenda_nil h, engineTurn_of_idle idle]

/-! ### Rejected accesses -/

/-- An access of the wrong size, misaligned or unmapped reaches no register (20_memory R63, 10_state R47). -/
theorem accessReg_eq_none {size : Nat} {off : BitVec 9} (rejected : size ≠ 4 ∨ off.toNat % 4 ≠ 0
    ∨ (0x04C ≤ off.toNat ∧ off.toNat < 0x080) ∨ 0x108 ≤ off.toNat) : accessReg size off = none := by
  rw [Option.eq_none_iff_forall_ne_some]
  intro r reached
  obtain ⟨rfl, offset⟩ := accessReg_some reached
  have := offset_mapped r
  omega

/-- Settles O37: no register is reached, so BUSERR and the answer are all that is written. -/
theorem rejectedAccessOnlySetsBusErr : Obligations.RejectedAccessOnlySetsBusErr := by
  intro s size off v rejected
  have unreached := accessReg_eq_none rejected
  simp only [applyEvent, busAccess, busRead, busWrite, unreached, answer, and_self]

/-! ### The bytes of the window -/

/-- Byte b of a register's word stands at the register's offset + b (20_memory R62). -/
theorem windowByte_offset_add (s : State) (r : Reg) {b : Nat} (hb : b < 4) :
    windowByte s (r.offset + b) = some (byteOf (peek s r) b) := by
  have aligned := (offset_mapped r).1
  rw [windowByte, show 4 * ((r.offset + b) / 4) = r.offset by omega, show (r.offset + b) % 4 = b by omega,
    regAt_offset, Option.map_some]

/-- Byte b of each word of a serialized quadruple (41_compression R143). -/
theorem getElem?_serialize (q : Quad) {b : Nat} (hb : b < 4) :
    (serialize q)[b]? = some (byteOf q.a b) ∧ (serialize q)[4 + b]? = some (byteOf q.b b)
      ∧ (serialize q)[8 + b]? = some (byteOf q.c b) ∧ (serialize q)[12 + b]? = some (byteOf q.d b) := by
  obtain rfl | rfl | rfl | rfl : b = 0 ∨ b = 1 ∨ b = 2 ∨ b = 3 := by omega
  all_goals exact ⟨rfl, rfl, rfl, rfl⟩

/-- Byte k of the padding window is byte k mod 4 of word k / 4 (10_state R42). -/
theorem padByte_eq (s : State) (k : Nat) (hk : k < 72) : padByte s k = byteOf s.padOut[k / 4] (k % 4) := by
  simp [padByte, show k / 4 < 18 by omega]

/-- Digest byte k stands at 0x030 + k (10_state R38). -/
theorem windowByte_digest (s : State) {k : Nat} (hk : k < 16) :
    windowByte s (0x030 + k) = (serialize s.digest)[k]? := by
  obtain ⟨b, hb, place⟩ : ∃ b < 4, k = b ∨ k = 4 + b ∨ k = 8 + b ∨ k = 12 + b := ⟨k % 4, by omega, by omega⟩
  obtain ⟨byteA, byteB, byteC, byteD⟩ := getElem?_serialize s.digest hb
  rcases place with rfl | rfl | rfl | rfl
  · rw [byteA]
    exact windowByte_offset_add s .digest0 hb
  · rw [byteB, ← Nat.add_assoc]
    exact windowByte_offset_add s .digest1 hb
  · rw [byteC, ← Nat.add_assoc]
    exact windowByte_offset_add s .digest2 hb
  · rw [byteD, ← Nat.add_assoc]
    exact windowByte_offset_add s .digest3 hb

/-- `msgbyte(k)` stands at 0x080 + k (10_state R41). -/
theorem windowByte_msgIn (s : State) {k : Nat} (hk : k < 64) : windowByte s (0x080 + k) = some (msgByte s k) := by
  have place : 0x080 + k = (Reg.msgIn ⟨k / 4, by omega⟩).offset + k % 4 := by simp only [Reg.offset]; omega
  rw [place, windowByte_offset_add s _ (by omega), msgByte_eq s k hk]
  rfl

/-- Padding byte k stands at 0x0C0 + k (10_state R42). -/
theorem windowByte_padOut (s : State) {k : Nat} (hk : k < 72) : windowByte s (0x0C0 + k) = some (padByte s k) := by
  have place : 0x0C0 + k = (Reg.padOut ⟨k / 4, by omega⟩).offset + k % 4 := by simp only [Reg.offset]; omega
  rw [place, windowByte_offset_add s _ (by omega), padByte_eq s k hk]
  rfl

/-- Settles O43, window by window. -/
theorem windowBytesAreLittleEndian : Obligations.WindowBytesAreLittleEndian := fun s =>
  ⟨fun _ hk => windowByte_digest s hk, fun _ hk => windowByte_msgIn s hk, fun _ hk => windowByte_padOut s hk⟩

/-! ### The instances of a system -/

/-- The engine after a transition, which always has a next state (`applyEvent_eq`). -/
def afterEvent (e : Event) (s : State) : State :=
  match applyEvent e s with
  | .next t => t
  | .fault _ | .refused _ => s

theorem applyEvent_eq (e : Event) (s : State) : applyEvent e s = .next (afterEvent e s) := by
  obtain ⟨t, ht⟩ := applyEvent_next e s
  rw [afterEvent, ht]

/-- A transition of engine k rewrites place k of the system and nothing else (60_exceptions R223). -/
theorem deliver_eq (k : Nat) (e : Event) (S : System) :
    S.deliver k e = .next ⟨S.engines.modify k (afterEvent e)⟩ := by
  unfold System.deliver
  cases h : S.engines[k]? with
  | none => simp [List.modify_eq_set_getElem?, h]
  | some t => simp [List.modify_eq_set_getElem?, h, applyEvent_eq, System.place]

/-- Rewriting two distinct places commutes. -/
theorem modify_comm {α : Type} (l : List α) {i j : Nat} (apart : i ≠ j) (f g : α → α) :
    (l.modify i f).modify j g = (l.modify j g).modify i f := by
  apply List.ext_getElem?
  intro n
  by_cases hi : i = n
  · subst hi
    simp [apart.symm]
  · simp [List.getElem?_modify, hi]

/-- Settles O59: each transition rewrites its own place of the system. -/
theorem instancesCommute : Obligations.InstancesCommute := by
  intro S S1 k k' e e' apart h
  rw [deliver_eq] at h
  cases h
  refine ⟨fun j hj => List.getElem?_modify_ne _ _ (Ne.symm hj), _, _, deliver_eq k' e' S, deliver_eq k' e' _, ?_⟩
  rw [deliver_eq, modify_comm _ apart]

end Sys2Proof.Machine
end

section
/-! The command word: its decoder and its encoder, and the engine's turn on it (30_encoding R80 to R91). -/

namespace Sys2Proof.Machine

variable {s : State} {i : Instr} {c : Word}

/-! ### The fields of a command's word -/

@[simp] theorem reservedField_encode (i : Instr) : reservedField (encode i) = 0 := reservedField_append _ _ _

@[simp] theorem nField_encode (i : Instr) : nField (encode i) = i.count := nField_append _ _ _

@[simp] theorem opField_encode (i : Instr) : opField (encode i) = i.opcode := opField_append _ _ _

/-- The word of a well-formed command decodes to it (30_encoding R84). -/
theorem decode_encode (fit : i.WellFormed) : decode (encode i) = .command i := by
  unfold decode
  rw [reservedField_encode, nField_encode, opField_encode]
  cases i with
  | update n =>
    have short : ¬ n.toNat > 64 := Nat.not_lt.mpr fit
    simp [Instr.opcode, Instr.count, short]
  | seed n => simp [Instr.opcode, Instr.count]
  | init | final | pad | discard => rfl

/-- Settles O4, by the fields of the word, command by command. -/
theorem decodeOfEncodeIsTheCommand : Obligations.DecodeOfEncodeIsTheCommand := fun _ fit => decode_encode fit

/-! ### Legal and illegal words -/

/-- A word is illegal for the reason whose INFO the rows of R85 give, or it decodes to a well-formed command. -/
theorem decode_of_illegalInfoOf (c : Word) :
    (∃ why, decode c = .illegal why ∧ illegalInfoOf c = (illegalInfo why).toNat)
    ∨ illegalInfoOf c = 0 ∧ ∃ i, i.WellFormed ∧ decode c = .command i := by
  rcases decode_cases c with ⟨row, d⟩ | ⟨row, d⟩ | ⟨row, d⟩ | ⟨row, d⟩ | ⟨legal, i, d, fit, -⟩
  case inr.inr.inr.inr => exact .inr ⟨legal, i, fit, d⟩
  all_goals exact .inl ⟨_, d, row⟩

/-- No reason has INFO 0 (30_encoding R85). -/
theorem toNat_illegalInfo_ne_zero (why : Illegal) : (illegalInfo why).toNat ≠ 0 := by
  cases why <;> decide

/-- What decodes is well formed (30_encoding R84, R85). -/
theorem wellFormed_of_decode (decoded : decode c = .command i) : i.WellFormed := by
  rcases decode_of_illegalInfoOf c with ⟨why, d, -⟩ | ⟨-, j, fit, d⟩ <;> rw [d] at decoded <;> cases decoded
  exact fit

/-- Settles O5: the word's fields are the command's, and they are the whole word. -/
theorem decodedWordIsItsEncoding : Obligations.DecodedWordIsItsEncoding := fun _ _ decoded =>
  ⟨wellFormed_of_decode decoded, encode_of_decode decoded⟩

/-! ### The engine's turn -/

/-- An illegal word in the latch completes with IllegalCommand (60_exceptions R202, R204). -/
theorem engineTurn_of_illegal {why : Illegal} (latch : s.latch = some c) (decoded : decode c = .illegal why) :
    engineTurn s = .next (completeFail (opField c) (.illegalCommand why) s) := by
  simp only [engineTurn, latch, decoded]

/-- A command in the latch is executed (60_exceptions R202). -/
theorem engineTurn_of_command (latch : s.latch = some c) (decoded : decode c = .command i) :
    engineTurn s = exec i s := by
  simp only [engineTurn, latch, decoded]

/-- A failed completion is precise, whatever the failure (60_exceptions R204). -/
theorem failedWith_completeFail (op : Byte) (f : Failure) (s : State) :
    FailedWith op f.code f.info s (completeFail op f s) := rfl

/-- Settles O7, by the decoder's answer and its INFO. -/
theorem illegalWordFailsWithItsInfo : Obligations.IllegalWordFailsWithItsInfo := by
  intro s c latch
  rcases decode_of_illegalInfoOf c with ⟨why, decoded, info⟩ | ⟨legal, i, fit, decoded⟩
  · refine ⟨fun _ => ⟨_, engineTurn_of_illegal latch decoded, ?_⟩, fun legal => ?_⟩
    · have field : BitVec.ofNat 4 (illegalInfoOf c) = illegalInfo why := by
        rw [info, BitVec.ofNat_toNat, BitVec.setWidth_eq]
      rw [field]
      exact failedWith_completeFail (opField c) (.illegalCommand why) s
    · exact absurd (info.symm.trans legal) (toNat_illegalInfo_ne_zero why)
  · exact ⟨fun illegal => absurd legal illegal, fun _ => ⟨i, fit, decoded, engineTurn_of_command latch decoded⟩⟩

/-- SEED with an N other than 16 fails with MalformedDigest (43_forge R184). -/
theorem exec_seed_of_ne_sixteen {n : BitVec 7} (size : n ≠ 16) (s : State) :
    exec (.seed n) s = .next (completeFail 0x05 .digestSize s) :=
  exec_seed_fail s (if_pos size)

/-- Settles O6: the words are closed terms, SEED 15 fails in every state. -/
theorem specWordsDecodeAsWritten : Obligations.SpecWordsDecodeAsWritten := by
  refine ⟨?_, ?_, ?_, ?_, fun s => rfl, ?_, ?_, ?_, ?_, ?_, ?_, rfl, ?_, rfl, ?_, rfl, ?_, rfl, fun s =>
    ⟨_, exec_seed_of_ne_sixteen (by decide) s, failedWith_completeFail _ _ s⟩⟩
  all_goals decide

end Sys2Proof.Machine
end

section
/-! The host's run of a command: the word to CMD, the polls, the engine's turn, the last poll (30_encoding R90). -/

namespace Sys2Proof.Machine

variable {s t u : State} {i : Instr} {rest : List Event}

/-! ### Several steps -/

/-- A first step, then k more, on any machine behind the host's interface. -/
theorem run_succ {M : Host.Core} {a b : M.State} (k : Nat) (first : M.step a = .next b) :
    M.run (k + 1) a = M.run k b := by
  simp only [Host.Core.run, first]

/-- The same of one engine (00_scope R12). -/
theorem steps_succ (k : Nat) (first : step s = .next t) : steps (k + 1) s = steps k t :=
  run_succ (M := Sys2Proof.core) k first

/-- k steps that do not stop, then more. -/
theorem steps_add {k : Nat} (first : steps k s = .next t) (more : Nat) : steps (k + more) s = steps more t := by
  induction k generalizing s with
  | zero =>
    cases first
    rw [Nat.zero_add]
  | succ k ih =>
    obtain ⟨v, hv⟩ : ∃ v, step s = .next v := nextTransition_next s
    rw [steps_succ k hv] at first
    rw [Nat.succ_add, steps_succ _ hv, ih first]

/-! ### The parts of a run -/

/-- With BUSY = 0 a write to CMD is accepted (60_exceptions R200). -/
theorem writeReg_cmd (v : Word) (idle : s.busy = false) : writeReg .cmd v s = accept v s := by
  simp [writeReg, idle]

/-- With BUSY = 0 the host's `cmd` on the agenda puts the command's word in the latch. -/
theorem step_hostCmd (idle : s.busy = false) (agenda : s.agenda = hostCmd i :: rest) :
    step s = .next (answer (.wrote .okay) (accept (encode i) { s with agenda := rest })) := by
  have free : State.busy { s with agenda := rest } = false := idle
  rw [step_of_agenda_cons agenda, hostCmd, hostWr_eq, writeReg_cmd _ free]

/-- A read on the agenda writes only the model's own fields (20_memory R66). -/
theorem step_hostRd {r : Reg} (agenda : s.agenda = hostRd r :: rest) :
    step s = .next { s with
      agenda := rest
      draws := if drawsFree s r then s.draws + 1 else s.draws
      answers := .read (readValue s r) .okay :: s.answers } :=
  (step_of_agenda_cons agenda).trans (hostRd_eq r _)

/-- Any number of polls writes only the model's own fields. -/
theorem steps_polls {polls : Nat} (agenda : s.agenda = List.replicate polls (hostRd .status) ++ rest) :
    ∃ d x, steps polls s = .next { s with agenda := rest, draws := d, answers := x } := by
  induction polls generalizing s with
  | zero =>
    have : s.agenda = rest := agenda
    subst this
    exact ⟨s.draws, s.answers, rfl⟩
  | succ polls ih =>
    simp only [steps_succ polls (step_hostRd agenda)]
    exact ih rfl

/-- A command that has run leaves BUSY = 0 (60_exceptions R203, R204). -/
theorem busy_of_exec (run : exec i s = .next t) : t.busy = false := by
  rcases exec_outcome run with ⟨f, rfl⟩ | ⟨u, -, rfl⟩ <;> rfl

/-- With BUSY = 0 a read of STATUS shows it in bit 0 (10_state R27). -/
theorem getLsbD_readValue_status_of_idle (idle : s.busy = false) : (readValue s .status).getLsbD 0 = false := by
  rw [getLsbD_readValue_status s (by decide) (by decide), getLsbD_peek_status, if_pos rfl, idle]

/-- The host's `wait` with a command in the latch: the command runs, and the last poll reads BUSY = 0. -/
theorem steps_hostWait {polls : Nat} (latch : s.latch = some (encode i)) (fit : i.WellFormed)
    (run : exec i s = .next u) (agenda : s.agenda = hostWait polls ++ rest) :
    ∃ d x v, steps (polls + 2) s = .next { u with agenda := rest, draws := d, answers := .read v .okay :: x }
      ∧ v.getLsbD 0 = false := by
  obtain ⟨d, x, polled⟩ := steps_polls (s := s) (polls := polls) (rest := .engine :: hostRd .status :: rest)
    (by simp [agenda, hostWait])
  have turn : step { s with agenda := .engine :: hostRd .status :: rest, draws := d, answers := x }
      = .next { u with agenda := hostRd .status :: rest, draws := d, answers := x } := by
    rw [step_of_agenda_cons rfl]
    exact (engineTurn_of_command (s := { s with agenda := hostRd .status :: rest, draws := d, answers := x }) latch
      (decode_encode fit)).trans (exec_ignores_own_fields i s u _ d x run)
  have idle : u.busy = false := busy_of_exec run
  rw [steps_add polled, steps_succ 1 turn, steps_succ 0 (step_hostRd rfl)]
  exact ⟨_, _, _, rfl, getLsbD_readValue_status_of_idle idle⟩

/-- Settles O58: the word is accepted, and the host waits. -/
theorem hostRunCompletesItsCommand : Obligations.HostRunCompletesItsCommand := by
  intro s i polls rest fit idle agenda
  have accepted := step_hostCmd (rest := hostWait polls ++ rest) idle agenda
  obtain ⟨u, run⟩ := exec_next i { s with latch := some (encode i), done := false }
  obtain ⟨d, x, v, waited, polled⟩ := steps_hostWait (i := i) (rest := rest) (polls := polls) rfl fit
    (exec_ignores_own_fields i _ u (hostWait polls ++ rest) s.draws (.wrote .okay :: s.answers) run) rfl
  exact ⟨_, u, (steps_succ (polls + 2) accepted).trans waited, run, rfl, rfl, v, x, rfl, polled⟩

end Sys2Proof.Machine
end

section
/-! The session commands, and what feeding a session computes (40_session R100 to R113). -/

namespace Sys2Proof.Machine

variable {s t u : State} {n : BitVec 7}

/-! ### The checks of UPDATE and FINAL -/

theorem sessionFailure_of_idle (idle : s.session = .idle) : sessionFailure s = some .noSession := by
  simp [sessionFailure, idle]

theorem sessionFailure_of_finalized (finalized : s.session = .finalized) :
    sessionFailure s = some .sessionFinalized := by
  simp [sessionFailure, finalized]

theorem sessionFailure_of_active (active : s.session = .active) : sessionFailure s = none := by
  simp [sessionFailure, active]

/-- In an active session UPDATE's one check is the count's (40_session R103). -/
theorem updateFailure_of_active (active : s.session = .active) (n : BitVec 7) :
    updateFailure n s = if s.count.toNat + n.toNat > Config.maxLen then some .countOverflow else none := by
  simp [updateFailure, sessionFailure_of_active active]

/-- An UPDATE that passes its checks (40_session R103). -/
theorem exec_update_of_active (active : s.session = .active) (fits : s.count.toNat + n.toNat ≤ Config.maxLen) :
    exec (.update n) s = .next (completeOk 0x02 (absorbInto (msgBytes s n.toNat) (addCount n.toNat s))) :=
  exec_update_ok s (by rw [updateFailure_of_active active, if_neg (Nat.not_lt.mpr fits)])

/-- A FINAL that passes its check (40_session R106). -/
theorem exec_final_of_active (active : s.session = .active) :
    exec .final s = .next (completeOk 0x03 (emitDigest (absorbInto (paddingFor s.count.toNat) s))) :=
  exec_final_ok s (sessionFailure_of_active active)

/-- An UPDATE with no session fails SessionState INFO 1 (40_session R103). -/
theorem exec_update_of_idle (idle : s.session = .idle) (n : BitVec 7) :
    ∃ t, exec (.update n) s = .next t ∧ FailedWith 0x02 4 1 s t :=
  ⟨_, exec_update_fail s (updateFailure_of_sessionFailure (sessionFailure_of_idle idle) n),
    failedWith_completeFail 0x02 .noSession s⟩

/-- A successful completion after an effect that leaves ERR alone (60_exceptions R203). -/
theorem succeeded_completeOk {op : Byte} (err : u.err = s.err) : Succeeded op s (completeOk op u) :=
  ⟨rfl, rfl, rfl, err⟩

/-- Settles O13, check by check. -/
theorem updateFailsOutsideItsConditions : Obligations.UpdateFailsOutsideItsConditions := by
  intro n s
  refine ⟨fun idle => exec_update_of_idle idle n, fun finalized => ?_, fun active overflow => ?_⟩
  · exact ⟨_, exec_update_fail s (updateFailure_of_sessionFailure (sessionFailure_of_finalized finalized) n),
      failedWith_completeFail 0x02 .sessionFinalized s⟩
  · exact ⟨_, exec_update_fail s ((updateFailure_of_active active n).trans (if_pos overflow)),
      failedWith_completeFail 0x02 .countOverflow s⟩

/-- Settles O17, by FINAL's one check. -/
theorem finalFailsOutsideASession : Obligations.FinalFailsOutsideASession := fun s =>
  ⟨fun idle => ⟨_, exec_final_fail s (sessionFailure_of_idle idle), failedWith_completeFail 0x03 .noSession s⟩,
    fun finalized => ⟨_, exec_final_fail s (sessionFailure_of_finalized finalized),
      failedWith_completeFail 0x03 .sessionFinalized s⟩⟩

/-! ### INIT and DISCARD -/

/-- Settles O11: INIT has one way to end, which depends on nothing it writes. -/
theorem initStartsASession : Obligations.InitStartsASession :=
  ⟨by decide, fun s => ⟨_, exec_init s, rfl, rfl, rfl, rfl, succeeded_completeOk rfl, rfl, ⟨rfl, rfl⟩,
    by simp [SameHostSide], rfl⟩⟩

/-- Under the invariant an IDLE session is clear already (10_state R45 item 3). -/
theorem loadSession_of_idle (inv : s.Inv) (idle : s.session = .idle) : loadSession Quad.zero 0 .idle s = s := by
  obtain ⟨count, buf, cv⟩ := inv.idleClear idle
  unfold loadSession
  rw [← cv, ← buf, ← idle, ← show s.count = BitVec.ofNat 64 0 from count]

/-- Settles O18: DISCARD has one way to end, an IDLE session. -/
theorem discardClearsTheSession : Obligations.DiscardClearsTheSession := by
  refine ⟨by decide, fun s => ⟨_, exec_discard s, rfl, rfl, rfl, rfl, succeeded_completeOk rfl, rfl, ⟨rfl, rfl⟩,
    by simp [SameHostSide], exec_update_of_idle rfl, fun inv idle => ?_⟩⟩
  rw [loadSession_of_idle inv idle]
  rfl

/-! ### UPDATE -/

section Blocks

variable (p : Sponge) (d : List Byte) (part : p.buf.length < 64)
include part

/-- A full block: it is compressed, and what follows it is absorbed from an empty buffer (40_session R102). -/
theorem absorb_full (full : 64 ≤ p.buf.length + d.length) :
    absorb p d = absorb ⟨compress p.cv ((p.buf ++ d).take 64), []⟩ ((p.buf ++ d).drop 64) := by
  rw [absorb_block p d part full, List.drop_append, List.drop_of_length_le part.le, List.nil_append]

/-- A full block and less than another: the rest is buffered. -/
theorem absorb_one_block (full : 64 ≤ p.buf.length + d.length) (rest : p.buf.length + d.length < 128) :
    absorb p d = ⟨compress p.cv ((p.buf ++ d).take 64), (p.buf ++ d).drop 64⟩ := by
  rw [absorb_full p d part full, absorb_short _ _ (by simp; omega), List.nil_append]

/-- Two full blocks: they are compressed in order. -/
theorem absorb_two_blocks (two : p.buf.length + d.length = 128) :
    absorb p d = ⟨compress (compress p.cv ((p.buf ++ d).take 64)) ((p.buf ++ d).drop 64), []⟩ := by
  rw [absorb_full p d part (by omega), absorb_fill _ _ (by simp; omega) (by simp), List.nil_append]

end Blocks

/-- Settles O12: below 64 bytes in all they are buffered, from 64 on one block goes and the rest is short. -/
theorem updateAbsorbsTheFirstBytes : Obligations.UpdateAbsorbsTheFirstBytes := by
  intro n s small active part fits
  have run := exec_update_of_active active fits
  obtain ⟨-, -, session, count, -⟩ := update_effect run (by simp)
  refine ⟨_, run, count, session, fun short => ?_, fun full => ?_, succeeded_completeOk rfl, rfl, ⟨rfl, rfl⟩,
    by simp [SameHostSide]⟩
  · have buffered := absorb_short ⟨s.cv, s.buf⟩ (msgBytes s n.toNat) (by simpa using short)
    simp [buffered]
  · have block := absorb_one_block ⟨s.cv, s.buf⟩ (msgBytes s n.toNat) part (by simpa using full)
      (by rw [length_msgBytes]; exact Nat.add_lt_add_of_lt_of_le part small)
    simp [block]

/-- Two inputs that agree on their first n bytes (00_scope R11). -/
theorem msgBytes_eq_of_agree {k : Nat} (agree : ∀ j < k, msgByte s j = msgByte t j) : msgBytes s k = msgBytes t k :=
  List.map_congr_left fun j hj => agree j (List.mem_range.mp hj)

/-- Settles O14: the checks read no input, and the bytes absorbed are the ones agreed on. -/
theorem updateReadsNoByteBeyondN : Obligations.UpdateReadsNoByteBeyondN := by
  intro n s m t agree run
  have checks : updateFailure n { s with msgIn := m } = updateFailure n s := rfl
  cases failure : updateFailure n s with
  | some f =>
    rw [exec_update_fail s failure] at run
    cases run
    rw [exec_update_fail _ (checks.trans failure)]
    rfl
  | none =>
    rw [exec_update_ok s failure, msgBytes_eq_of_agree agree] at run
    cases run
    rw [exec_update_ok _ (checks.trans failure)]
    rfl

/-! ### FINAL -/

/-- Settles O15: FINAL's one way to succeed, read off field by field. -/
theorem finalEmitsTheDigest : Obligations.FinalEmitsTheDigest := fun s active =>
  ⟨_, exec_final_of_active active, rfl, rfl, rfl, rfl, rfl, succeeded_completeOk rfl, ⟨rfl, rfl⟩,
    by simp [SameHostSide]⟩

/-- Settles O16: the buffer and the padding are 64 bytes, or 128 (42_padding R165). -/
theorem finalCompressesOneOrTwoBlocks : Obligations.FinalCompressesOneOrTwoBlocks := by
  intro s inv active
  have part := inv.bufferPartial
  have buffered := inv.activeBuffer active
  have padding := length_paddingFor_eq s.count.toNat
  rw [zeroBytes_eq] at padding
  obtain ⟨session, -⟩ := State.inv_iff.mp inv
  obtain ⟨emptied, -⟩ := (session.emit_padded active).finalizedDigest rfl
  refine ⟨_, exec_final_of_active active, emptied, fun one => ?_, fun two => ?_⟩
  · have block := absorb_fill ⟨s.cv, s.buf⟩ (paddingFor s.count.toNat) (by simp only; omega) part
    simp [block]
  · have blocks := absorb_two_blocks ⟨s.cv, s.buf⟩ (paddingFor s.count.toNat) part (by simp only; omega)
    simp [blocks]

/-! ### Feeding a session -/

/-- What any feeding of S leaves: SESSION as it was, COUNT with the bytes counted, and what `absorb` of S leaves
(40_session R111). -/
theorem feeds_absorb {S : List Byte} (fed : Feeds S s t) :
    t.session = s.session ∧ t.count.toNat = s.count.toNat + S.length
      ∧ (⟨t.cv, t.buf⟩ : Sponge) = absorb ⟨s.cv, s.buf⟩ S := by
  rcases feeds_effect fed with ⟨⟨cv, buf, count, session⟩, rfl⟩ | ⟨before, after, -, count, sponge⟩
  · exact ⟨session, by simp [count], by simp [cv, buf]⟩
  · exact ⟨after.trans before.symm, count, sponge⟩

/-- The state with the bytes c at the start of MSG_IN, 0x00 past the end (00_scope R11). -/
def withInput (c : List Byte) (s : State) : State := { s with msgIn := Vector.ofFn fun i => wordAt c i.val }

theorem sameSession_withInput (c : List Byte) (s : State) : SameSession s (withInput c s) := by
  unfold withInput
  exact ⟨rfl, rfl, rfl, rfl⟩

theorem msgByte_withInput (c : List Byte) (s : State) {k : Nat} (hk : k < 64) :
    msgByte (withInput c s) k = c.getD k 0 := by
  rw [msgByte_eq _ k hk]
  simp only [withInput, Vector.getElem_ofFn]
  rw [byteOf_wordAt _ _ _ (by omega), show 4 * (k / 4) + k % 4 = k by omega]

/-- A chunk in the input window is read back whole. -/
theorem msgBytes_withInput {c : List Byte} (short : c.length ≤ 64) (s : State) :
    msgBytes (withInput c s) c.length = c := by
  apply List.ext_getElem (by simp)
  intro k _ hk
  simp [msgBytes, msgByte_withInput c s (show k < 64 by omega), hk]

/-- One chunk that fits is fed to an active session by loading it and one UPDATE (40_session R103). -/
theorem feeds_chunk {c : List Byte} (short : c.length ≤ 64) (active : s.session = .active)
    (fits : s.count.toNat + c.length ≤ Config.maxLen) :
    ∃ v, v.session = .active ∧ v.count.toNat = s.count.toNat + c.length
      ∧ ∀ rest t, Feeds rest v t → Feeds (c ++ rest) s t := by
  obtain ⟨n, size⟩ : ∃ n : BitVec 7, n.toNat = c.length := ⟨BitVec.ofNat 7 c.length, by simp; omega⟩
  obtain ⟨-, -, keptCount, keptSession⟩ := sameSession_withInput c s
  have run := exec_update_of_active (s := withInput c s) (n := n) (keptSession.trans active)
    (by rwa [keptCount, size])
  have ok : resultCode (okResult 0x02) = 0 := resultCode_okResult _
  obtain ⟨-, -, session, count, -⟩ := update_effect run ok
  refine ⟨_, session, by rw [count, keptCount, size], fun rest t more => ?_⟩
  have fed := Feeds.update (sameSession_withInput c s) (size.trans_le short) run ok more
  rwa [size, msgBytes_withInput short] at fed

/-- Bytes that fit can be fed to an active session, in chunks of at most 64 (30_encoding R90). -/
theorem exists_feeds_of_chunks (k : Nat) {S : List Byte} (chunks : S.length ≤ 64 * k) (active : s.session = .active)
    (fits : s.count.toNat + S.length ≤ Config.maxLen) : ∃ t, Feeds S s t := by
  induction k generalizing S s with
  | zero =>
    obtain rfl : S = [] := List.length_eq_zero_iff.mp (by omega)
    exact ⟨s, .stop ⟨rfl, rfl, rfl, rfl⟩⟩
  | succ k ih =>
    obtain ⟨v, session, count, feed⟩ := feeds_chunk (c := S.take 64) (by simp) active (by simp; omega)
    obtain ⟨t, more⟩ := ih (S := S.drop 64) (by simp; omega) session (by rw [count]; simp; omega)
    exact ⟨t, S.take_append_drop 64 ▸ feed _ t more⟩

/-- Bytes that fit can be fed to an active session (40_session R111). -/
theorem exists_feeds {S : List Byte} (active : s.session = .active)
    (fits : s.count.toNat + S.length ≤ Config.maxLen) : ∃ t, Feeds S s t :=
  exists_feeds_of_chunks S.length (by omega) active fits

/-- Settles O55: what a feeding leaves is a function of the session and the bytes. -/
theorem chunkingDoesNotMatter : Obligations.ChunkingDoesNotMatter := by
  refine ⟨fun S s t t' fed fed' => ?_, fun S s active fits => ?_⟩
  · obtain ⟨session, count, sponge⟩ := feeds_absorb fed
    obtain ⟨session', count', sponge'⟩ := feeds_absorb fed'
    obtain ⟨cv, buf⟩ := Sponge.mk.inj (sponge'.trans sponge.symm)
    exact ⟨cv, buf, BitVec.eq_of_toNat_eq (count'.trans count.symm), session'.trans session.symm⟩
  · obtain ⟨t, fed⟩ := exists_feeds active fits
    obtain ⟨session, count, -⟩ := feeds_absorb fed
    exact ⟨t, fed, session.trans active, count⟩

/-! ### MD4 -/

/-- FINAL after feeding M to a fresh session emits the chaining state of the padded message (40_session R112). -/
theorem exec_final_of_feeds {M : List Byte} (active : s.session = .active) (cv : s.cv = Config.iv) (buf : s.buf = [])
    (count : s.count = 0) (fed : Feeds M s t) :
    ∃ u, exec .final t = .next u ∧ resultCode u.result = 0 ∧ u.digest = md4Words M := by
  obtain ⟨session, counted, sponge⟩ := feeds_absorb fed
  have len : t.count.toNat = M.length := by simp [counted, count]
  refine ⟨_, exec_final_of_active (session.trans active), by simp, ?_⟩
  simp [sponge, len, cv, buf, ← absorb_append, absorb_padded]

/-- Settles O56: from the IV, feeding M and FINAL's padding absorb the padded message. -/
theorem sessionComputesMd4 : Obligations.SessionComputesMd4 := by
  intro M s
  refine ⟨_, exec_init s, ⟨fun ⟨t, fed⟩ => ?_, fun short => ?_⟩, length_serialize _, fun t fed => ?_⟩
  · rcases feeds_effect fed with ⟨-, rfl⟩ | ⟨-, -, fits, -⟩
    · exact Nat.zero_le _
    · simpa [Config.maxLen] using fits
  · exact exists_feeds rfl (by simpa [Config.maxLen] using short)
  · obtain ⟨u, run, ok, digest⟩ := exec_final_of_feeds rfl rfl rfl rfl fed
    exact ⟨u, run, ok, congrArg serialize digest⟩

/-- The digest words of the empty message (40_session R113), evaluated by the kernel. -/
theorem md4Words_nil : md4Words [] = ⟨0xe0cfd631, 0x31e96ad1, 0xd7593cb7, 0xc089c0e0⟩ := by decide +kernel

/-- The digest words of "abc" (40_session R113), evaluated by the kernel. -/
theorem md4Words_abc : md4Words [0x61, 0x62, 0x63] = ⟨0x7a0148a4, 0x52d821af, 0xe80ac15f, 0x9d72a67a⟩ := by
  decide +kernel

/-- Settles O53: the digest words of the two messages, in the host's hex. -/
theorem knownDigests : Obligations.KnownDigests := by
  simp only [Obligations.KnownDigests, md4, md4Words_nil, md4Words_abc]
  decide

end Sys2Proof.Machine
end

section
/-! The compression function: its rotation, round functions, step and schedule, and the bytes of its words
(41_compression R134 to R143). -/

namespace Sys2Proof.Machine

/-! ### Rotation -/

/-- Below the word's width `rotl` (R134) is the library's rotation. -/
theorem rotl_eq_rotateLeft (x : Word) {s : Nat} (hs : s < 32) : rotl x s = x.rotateLeft s := by
  rw [rotl, BitVec.rotateLeft_def, Nat.mod_eq_of_lt hs]
  split
  next zero => simp [zero, BitVec.ushiftRight_eq_zero]
  next => rfl

/-- A rotation by s moves bit (i - s) mod 32 to bit i (R134). -/
theorem getLsbD_rotl (x : Word) {s i : Nat} (hs : s < 32) (hi : i < 32) :
    (rotl x s).getLsbD i = x.getLsbD ((i + 32 - s) % 32) := by
  rw [rotl_eq_rotateLeft x hs, BitVec.getLsbD_rotateLeft, Nat.mod_eq_of_lt hs]
  by_cases wraps : i < s
  · simp [wraps, show (i + 32 - s) % 32 = 32 - s + i by omega]
  · simp [wraps, hi, show (i + 32 - s) % 32 = i - s by omega]

/-- The shift formula of R134 on numbers. -/
theorem toNat_rotl (x : Word) {s : Nat} (pos : 1 ≤ s) :
    (rotl x s).toNat = (x.toNat * 2 ^ s ||| x.toNat / 2 ^ (32 - s)) % 2 ^ 32 := by
  have low : x.toNat / 2 ^ (32 - s) < 2 ^ 32 := (Nat.div_le_self _ _).trans_lt x.isLt
  rw [rotl, if_neg (by omega), Nat.or_mod_two_pow, Nat.mod_eq_of_lt low, BitVec.toNat_or, BitVec.toNat_shiftLeft,
    BitVec.toNat_ushiftRight, Nat.shiftLeft_eq, Nat.shiftRight_eq_div_pow]

/-- Settles O49: bits and numbers by the rotation's two lemmas, the schedule's amounts row by row. -/
theorem rotationMovesBits : Obligations.RotationMovesBits :=
  ⟨fun x _ _ hs hi => getLsbD_rotl x hs hi, fun x _ pos _ => toNat_rotl x pos, fun _ => rfl, by decide⟩

/-! ### Words and bytes -/

/-- The four bytes of word i of a byte sequence. -/
theorem le32bytes_wordAt (p : List Byte) (i : Nat) :
    le32bytes (wordAt p i) = (List.range 4).map fun b => p.getD (4 * i + b) 0 := by
  have byte (b : Nat) (hb : b < 4) := byteOf_wordAt p i b hb
  rw [le32bytes, byte 0 (by omega), byte 1 (by omega), byte 2 (by omega), byte 3 (by omega)]
  rfl

/-- `parse` undoes `serialize` (43_forge R182): each word is put together of its own bytes. -/
theorem parse_serialize (q : Quad) : parse (serialize q) = q := by
  obtain ⟨a, b, c, d⟩ := q
  rw [parse, Quad.mk.injEq]
  exact ⟨le32_byteOf a, le32_byteOf b, le32_byteOf c, le32_byteOf d⟩

/-- `serialize` undoes `parse` on sixteen bytes (43_forge R182). -/
theorem serialize_parse {p : List Byte} (sixteen : p.length = 16) : serialize (parse p) = p := by
  have bytes : serialize (parse p) = (List.range 16).map fun k => p.getD k 0 := by
    simp only [serialize, parse, le32bytes_wordAt]
    rfl
  rw [bytes]
  refine List.ext_getElem (by simp [sixteen]) fun k _ hk => ?_
  simp [hk]

/-- Settles O54: the two inverse laws, and the bytes and words read off the definitions. -/
theorem parseInvertsSerialize : Obligations.ParseInvertsSerialize :=
  ⟨fun q => ⟨length_serialize q, parse_serialize q, fun _ hb => getElem?_serialize q hb⟩,
    fun _ sixteen => ⟨serialize_parse sixteen, rfl, rfl, rfl, rfl⟩, parse_msgBytes, by decide⟩

/-! ### Round functions -/

/-- F is a choice by the bit of x (R135). -/
theorem getLsbD_roundF (x y z : Word) {i : Nat} (hi : i < 32) :
    (roundF x y z).getLsbD i = if x.getLsbD i then y.getLsbD i else z.getLsbD i := by
  simp only [roundF, BitVec.getLsbD_or, BitVec.getLsbD_and, BitVec.getLsbD_not, hi, decide_true, Bool.true_and]
  cases x.getLsbD i <;> simp

/-- G is the majority of the three bits (R136). -/
theorem getLsbD_roundG (x y z : Word) (i : Nat) :
    (roundG x y z).getLsbD i
      = decide (2 ≤ (x.getLsbD i).toNat + (y.getLsbD i).toNat + (z.getLsbD i).toNat) := by
  have majority : ∀ a b c : Bool, (a && b || a && c || b && c) = decide (2 ≤ a.toNat + b.toNat + c.toNat) := by decide
  simp only [roundG, BitVec.getLsbD_or, BitVec.getLsbD_and, majority]

/-- H is the parity of the three bits (R137). -/
theorem getLsbD_roundH (x y z : Word) (i : Nat) :
    (roundH x y z).getLsbD i
      = decide (((x.getLsbD i).toNat + (y.getLsbD i).toNat + (z.getLsbD i).toNat) % 2 = 1) := by
  have parity : ∀ a b c : Bool, (a ^^ b ^^ c) = decide ((a.toNat + b.toNat + c.toNat) % 2 = 1) := by decide
  simp only [roundH, BitVec.getLsbD_xor, parity]

/-- Settles O50, function by function. -/
theorem roundFunctionsActBitwise : Obligations.RoundFunctionsActBitwise := fun x y z i hi =>
  ⟨getLsbD_roundF x y z hi, getLsbD_roundG x y z i, getLsbD_roundH x y z i⟩

/-! ### The step and the schedule -/

/-- Settles O51: for each acc the step computes to the quadruple with that word replaced (R142). -/
theorem aStepWritesItsAccOnly : Obligations.AStepWritesItsAccOnly := fun _ _ _ _ _ _ _ _ =>
  ⟨rfl, rfl, rfl, rfl⟩

/-- Settles O52: the 48 rows are a closed table (R139), compared row by row. -/
theorem scheduleIsTheTable : Obligations.ScheduleIsTheTable := by
  refine ⟨rfl, fun j => ?_⟩
  fin_cases j <;> rfl

end Sys2Proof.Machine
end

section
/-! The padding byte by byte, and PAD, which writes it (42_padding R161 to R165). -/

namespace Sys2Proof.Machine

variable {s : State}

/-! ### The padding -/

/-- Settles O19: the length is 9 and the zero bytes, which `zeroBytes_eq` gives by L mod 64. -/
theorem paddingLengthAndAlignment : Obligations.PaddingLengthAndAlignment := by
  intro L
  rw [length_paddingFor_eq, zeroBytes_eq]
  omega

/-- The least number of bytes that brings L + 1 to 56 modulo 64 (42_padding R161). -/
theorem zeroBytes_least (L : Nat) :
    (L + 1 + zeroBytes L) % 64 = 56 ∧ ∀ y < zeroBytes L, (L + 1 + y) % 64 ≠ 56 := by
  rw [zeroBytes_eq]
  exact ⟨by omega, fun y _ => by omega⟩

/-- The bytes between the marker and the length field (42_padding R161). -/
theorem getElem?_paddingFor_zeros (L : Nat) {k : Nat} (hk : k < zeroBytes L) : (paddingFor L)[1 + k]? = some 0 := by
  rw [paddingFor, Nat.add_comm, List.getElem?_cons_succ, List.getElem?_append_left (by simpa using hk),
    List.getElem?_replicate_of_lt hk]

/-- Byte k of a number's eight little-endian bytes (00_scope R10). -/
theorem getElem?_le64bytes_ofNat (n : Nat) {k : Nat} (hk : k < 8) :
    (le64bytes (BitVec.ofNat 64 n))[k]? = some (BitVec.ofNat 8 (n / 2 ^ (8 * k))) := by
  rw [le64bytes, List.getElem?_map, List.getElem?_range hk, Option.map_some, Option.some_inj]
  refine BitVec.eq_of_getLsbD_eq fun i hi => ?_
  rw [BitVec.getLsbD_extractLsb', BitVec.getLsbD_ofNat, BitVec.getLsbD_ofNat, Nat.testBit_div_two_pow]
  simp [hi, show 8 * k + i < 64 by omega, Nat.add_comm i]

/-- The length field: the bytes after the marker and the zeros (42_padding R161). -/
theorem getElem?_paddingFor_length (L : Nat) {k : Nat} (hk : k < 8) :
    (paddingFor L)[1 + zeroBytes L + k]? = some (BitVec.ofNat 8 (8 * L / 2 ^ (8 * k))) := by
  rw [paddingFor, show 1 + zeroBytes L + k = zeroBytes L + k + 1 by omega, List.getElem?_cons_succ,
    List.getElem?_append_right (by simp), List.length_replicate, Nat.add_sub_cancel_left,
    getElem?_le64bytes_ofNat _ hk]

/-- Settles O20, part by part: the marker, the zeros, the length field. -/
theorem paddingBytesAreMarkerZerosLength : Obligations.PaddingBytesAreMarkerZerosLength := by
  intro L valid
  have size := length_paddingFor_eq L
  have zeros := zeroBytes_eq L
  obtain ⟨reaches, least⟩ := zeroBytes_least L
  exact ⟨by omega, zeroBytes L, by omega, by omega, reaches, least, by omega, rfl,
    fun _ hk => getElem?_paddingFor_zeros L hk, fun _ hk => getElem?_paddingFor_length L hk⟩

/-- Settles O21: by L mod 64 there are below 56 zero bytes, or at least 56, of which the last 56 start the last
block. -/
theorem paddingAddsOneOrTwoBlocks : Obligations.PaddingAddsOneOrTwoBlocks := by
  intro L
  have size := length_paddingFor_eq L
  have zeros := zeroBytes_eq L
  refine ⟨fun one => by omega, fun two => ⟨by omega, fun k hk => ?_⟩, fun whole => by omega⟩
  rw [show (paddingFor L).length - 64 + k = 1 + (zeroBytes L - 56 + k) by omega]
  exact getElem?_paddingFor_zeros L (by omega)

/-! ### PAD -/

/-- PAD_OUT_LEN holds the length of any padding (10_state R40). -/
theorem toNat_padOutLen_writePadding (L : Nat) (s : State) :
    (writePadding (paddingFor L) s).padOutLen.toNat = (paddingFor L).length := by
  obtain ⟨-, upper, -⟩ := length_paddingFor_bounds L
  rw [writePadding_padOutLen, BitVec.toNat_ofNat, Nat.mod_eq_of_lt (by omega)]

/-- A PAD that passes its checks (42_padding R163). -/
theorem exec_pad_of_valid (valid : (lenOperand s).toNat ≤ 2 ^ 61 - 1) :
    exec .pad s = .next (completeOk 0x04 (writePadding (paddingFor (lenOperand s).toNat) s)) := by
  rcases lenVal_cases s with ⟨-, long⟩ | ⟨-, long, -⟩ | ⟨ok, -⟩
  · omega
  · omega
  · exact exec_pad_ok s ok

/-- Settles O22: PAD's one way to succeed, whose bytes `padByte_writePadding` reads back. -/
theorem padWritesThePadding : Obligations.PadWritesThePadding := by
  intro s valid
  refine ⟨_, exec_pad_of_valid valid, fun k hk => ?_, ?_, succeeded_completeOk (writePadding_err s _),
    by simp [SameSession], by simp [SameDigest], by simp [SameHostSide]⟩
  · rw [padByte_congr (completeOk_padOut _ _), padByte_writePadding _ _ _ hk]
  · rw [completeOk_padOutLen, toNat_padOutLen_writePadding]

/-- Settles O24: both runs succeed, and what they write is a function of one length operand. -/
theorem padDependsOnLengthOnly : Obligations.PadDependsOnLengthOnly := by
  intro s s' t t' lo hi valid run run'
  have same : lenOperand s' = lenOperand s := by rw [lenOperand, lenOperand, lo, hi]
  rw [exec_pad_of_valid valid] at run
  rw [exec_pad_of_valid (by rwa [same]), same] at run'
  cases run
  cases run'
  simp

end Sys2Proof.Machine
end

section
/-! The forgery: SEED, a session that goes on from a digest, and the host's hex codec (43_forge R182 to R190). -/

namespace Sys2Proof.Machine

variable {s t : State} {P S : List Byte}

/-! ### The checks of SEED -/

theorem lenVal_of_negative (negative : (lenOperand s).toInt < 0) : lenVal s = .error .lengthNegative := by
  obtain ⟨msb, -⟩ := lenOperand_toInt s
  have size := msb.mp negative
  rcases lenVal_cases s with ⟨fails, -⟩ | ⟨-, -, small⟩ | ⟨-, small⟩
  · exact fails
  all_goals omega

theorem lenVal_of_long (long : 2 ^ 61 - 1 < (lenOperand s).toInt) : lenVal s = .error .lengthTooLong := by
  obtain ⟨msb, nonneg⟩ := lenOperand_toInt s
  rcases lenVal_cases s with ⟨-, size⟩ | ⟨fails, -, -⟩ | ⟨-, size⟩
  · have := msb.mpr size
    omega
  · exact fails
  · have := nonneg (by omega)
    omega

theorem lenVal_of_valid (valid : (lenOperand s).toNat ≤ 2 ^ 61 - 1) : lenVal s = .ok (lenOperand s).toNat := by
  rcases lenVal_cases s with ⟨-, size⟩ | ⟨-, size, -⟩ | ⟨ok, -⟩
  · omega
  · omega
  · exact ok

/-- With N = 16 the length operand is checked next (43_forge R184). -/
theorem seedLength_of_lenVal_error {f : Failure} (fails : lenVal s = .error f) : seedLength 16 s = .error f := by
  simp [seedLength, fails]

/-- The last check is that of the count after the glue padding (43_forge R184). -/
theorem seedLength_of_lenVal_ok {L : Nat} (ok : lenVal s = .ok L) :
    seedLength 16 s = if L + (paddingFor L).length > Config.maxLen then .error .seedOverflow else .ok L := by
  simp [seedLength, ok]

/-- Settles O26, check by check. -/
theorem seedFailsInOrder : Obligations.SeedFailsInOrder := by
  intro n s
  refine ⟨fun other => ?_, fun size negative => ?_, fun size long => ?_, fun size nonneg valid overflow => ?_⟩
  · exact ⟨_, exec_seed_of_ne_sixteen (fun sixteen => other (congrArg BitVec.toNat sixteen)) s,
      failedWith_completeFail 0x05 .digestSize s⟩
  all_goals obtain rfl : n = 16 := BitVec.eq_of_toNat_eq size
  · exact ⟨_, exec_seed_fail s (seedLength_of_lenVal_error (lenVal_of_negative negative)),
      failedWith_completeFail 0x05 .lengthNegative s⟩
  · exact ⟨_, exec_seed_fail s (seedLength_of_lenVal_error (lenVal_of_long long)),
      failedWith_completeFail 0x05 .lengthTooLong s⟩
  · obtain ⟨msb, signed⟩ := lenOperand_toInt s
    have ok : lenVal s = .ok (lenOperand s).toNat := lenVal_of_valid (by omega)
    exact ⟨_, exec_seed_fail s ((seedLength_of_lenVal_ok ok).trans (if_pos overflow)),
      failedWith_completeFail 0x05 .seedOverflow s⟩

/-! ### SEED -/

/-- A SEED that passes its checks (43_forge R184). -/
theorem exec_seed_of_fits
    (fits : (lenOperand s).toNat + (paddingFor (lenOperand s).toNat).length ≤ 2 ^ 61 - 1) :
    exec (.seed 16) s = .next (completeOk 0x05 (writePadding (paddingFor (lenOperand s).toNat)
      (loadSession (parse (msgBytes s 16)) ((lenOperand s).toNat + (paddingFor (lenOperand s).toNat).length)
        .active s))) := by
  have ok : lenVal s = .ok (lenOperand s).toNat := lenVal_of_valid (by omega)
  exact exec_seed_ok s ((seedLength_of_lenVal_ok ok).trans (if_neg (Nat.not_lt.mpr fits)))

/-- COUNT holds every number up to MAXLEN (10_state R36). -/
theorem toNat_count_loadSession {n : Nat} (fits : n ≤ 2 ^ 61 - 1) (q : Quad) (m : Session) (s : State) :
    (loadSession q n m s).count.toNat = n := by
  rw [loadSession_count, BitVec.toNat_ofNat, Nat.mod_eq_of_lt (by omega)]

/-- Settles O25: SEED's one way to succeed, read off field by field. -/
theorem seedLoadsDigestAndGlue : Obligations.SeedLoadsDigestAndGlue := by
  intro s fits
  obtain ⟨-, -, whole⟩ := length_paddingFor_bounds (lenOperand s).toNat
  have count := toNat_count_loadSession fits (parse (msgBytes s 16)) .active s
  refine ⟨_, exec_seed_of_fits fits, parse_msgBytes s, rfl, count, (congrArg (· % 64) count).trans whole, rfl,
    fun k hk => ?_, ?_, succeeded_completeOk rfl, rfl, by simp [SameHostSide]⟩
  · rw [padByte_congr (completeOk_padOut _ _), padByte_writePadding _ _ _ hk]
  · rw [completeOk_padOutLen, toNat_padOutLen_writePadding]

/-- A length and its padding stay within MAXLEN exactly up to 2^61 - 73: their sum ends on a block, so it is at most
2^61 - 64, and it is more than the length by at least 9 (43_forge R184). -/
theorem padded_fits_iff (L : Nat) : L + (paddingFor L).length ≤ 2 ^ 61 - 1 ↔ L ≤ 2 ^ 61 - 73 := by
  obtain ⟨lower, upper, whole⟩ := length_paddingFor_bounds L
  omega

/-- The largest length and its nine bytes of padding (43_forge R184). -/
theorem padded_largest : 2 ^ 61 - 73 + (paddingFor (2 ^ 61 - 73)).length = 2 ^ 61 - 64 := by
  obtain ⟨lower, upper, whole⟩ := length_paddingFor_bounds (2 ^ 61 - 73)
  omega

/-- Settles O27: a SEED that succeeds has passed its last check, and one within the bound passes all of them. -/
theorem seedAcceptsUpToTheLargestLength : Obligations.SeedAcceptsUpToTheLargestLength := by
  intro s t run
  refine ⟨⟨fun ok => ?_, fun small => ?_⟩, fun largest => ?_⟩
  · rcases exec_outcome run with ⟨f, rfl⟩ | ⟨u, effect, -⟩
    · exact absurd (by simpa using ok) (failure_code_ne_zero f)
    · cases effect with
      | seed fits => exact (padded_fits_iff _).mp fits
  · rw [exec_seed_of_fits ((padded_fits_iff _).mpr small)] at run
    cases run
    simp
  · have fits := (padded_fits_iff _).mpr largest.le
    rw [exec_seed_of_fits fits] at run
    cases run
    rw [completeOk_count, writePadding_count, toNat_count_loadSession fits, largest, padded_largest]

/-! ### The forgery -/

/-- The glue the host reads back is what the padding window holds (43_forge R186). -/
theorem glueBytes_eq {p : List Byte} (fits : p.length ≤ 72) (bytes : ∀ k < 72, padByte s k = p.getD k 0)
    (len : s.padOutLen.toNat = p.length) : glueBytes s = p := by
  rw [glueBytes, len]
  refine List.ext_getElem (by simp) fun k _ hk => ?_
  simp [bytes k (by omega), hk]

/-- The session of s is the one that INIT and feeding the bytes P leave (40_session R112), whether or not this engine
has seen P. -/
structure SessionOf (P : List Byte) (s : State) : Prop where
  active : s.session = .active
  count : s.count.toNat = P.length
  sponge : (⟨s.cv, s.buf⟩ : Sponge) = absorb ⟨Config.iv, []⟩ P

/-- Feeding S goes on with the bytes (40_session R111). -/
theorem SessionOf.feed (before : SessionOf P s) (fed : Feeds S s t) : SessionOf (P ++ S) t := by
  obtain ⟨session, count, sponge⟩ := feeds_absorb fed
  exact ⟨session.trans before.active, by rw [count, before.count, List.length_append],
    by rw [sponge, before.sponge, absorb_append]⟩

/-- FINAL emits the MD4 of the bytes (40_session R112). -/
theorem SessionOf.exec_final (h : SessionOf P s) :
    ∃ u, exec .final s = .next u ∧ resultCode u.result = 0 ∧ serialize u.digest = md4 P := by
  refine ⟨_, exec_final_of_active h.active, by simp, ?_⟩
  simp [h.sponge, h.count, ← absorb_append, absorb_padded, md4]

/-- SEED of the digest and the length of M: it succeeds, shows the glue padding, and the session is that of M and its
padding, which is whole blocks, so that the digest is the chaining state after them (43_forge R188). -/
theorem exec_seed_md4 {M : List Byte} (short : M.length ≤ 2 ^ 61 - 73) (digest : msgBytes s 16 = md4 M)
    (len : (lenOperand s).toNat = M.length) :
    ∃ u, exec (.seed 16) s = .next u ∧ resultCode u.result = 0 ∧ glueBytes u = paddingFor M.length
      ∧ SessionOf (M ++ paddingFor M.length) u := by
  have fits := (padded_fits_iff M.length).mpr short
  obtain ⟨-, window, -⟩ := length_paddingFor_bounds M.length
  obtain ⟨u, run, cv, buf, count, -, active, bytes, size, ⟨result, -⟩, -⟩ :=
    seedLoadsDigestAndGlue s (by rwa [len])
  rw [len] at count bytes size
  rw [← parse_msgBytes, digest, md4, parse_serialize] at cv
  refine ⟨u, run, ?_, glueBytes_eq window bytes size, active, ?_, ?_⟩
  · rw [result]
    exact resultCode_okResult 0x05
  · rw [count, List.length_append]
  · rw [cv, buf, absorb_padded]

/-- Settles O57: SEED loads the session of M and its padding, feeding S goes on with it, and FINAL emits the MD4 of
the whole. -/
theorem forgeryIsCorrect : Obligations.ForgeryIsCorrect := by
  intro M S s short total digest len
  obtain ⟨s1, seeded, ok, glue, session⟩ := exec_seed_md4 short digest len
  refine ⟨s1, seeded, ok, glue, exists_feeds session.active ?_, fun t fed => ?_⟩
  · rwa [session.count, ← List.length_append]
  · obtain ⟨u, run, done, forged⟩ := (session.feed fed).exec_final
    exact ⟨u, run, done, by rw [forgeryResult, glue, forged]⟩

/-! ### The hex codec -/

/-- The high nibble of a byte as a number. -/
theorem toNat_highNibble (b : Byte) : (b.extractLsb' 4 4).toNat = b.toNat / 16 := by
  rw [BitVec.extractLsb'_toNat, Nat.shiftRight_eq_div_pow]
  omega

/-- The low nibble of a byte as a number. -/
theorem toNat_lowNibble (b : Byte) : (b.extractLsb' 0 4).toNat = b.toNat % 16 := by
  rw [BitVec.extractLsb'_toNat, Nat.shiftRight_zero]

/-- A byte is its two nibbles. -/
theorem highNibble_append_lowNibble (b : Byte) : b.extractLsb' 4 4 ++ b.extractLsb' 0 4 = b :=
  (BitVec.extractLsb'_append_extractLsb'_eq_extractLsb' rfl).trans BitVec.extractLsb'_eq_self

theorem hexEncode_cons (b : Byte) (p : List Byte) :
    hexEncode (b :: p) = hexChar (b.extractLsb' 4 4) :: hexChar (b.extractLsb' 0 4) :: hexEncode p := rfl

theorem length_hexEncode (p : List Byte) : (hexEncode p).length = 2 * p.length := by
  induction p with
  | nil => rfl
  | cons b p ih => rw [hexEncode_cons, List.length_cons, List.length_cons, List.length_cons, ih]; omega

/-- The characters are the sixteen digits in order (43_forge R190). -/
theorem hexChar_eq_getD (n : BitVec 4) : hexChar n = "0123456789abcdef".toList.getD n.toNat '?' := by
  revert n
  decide

/-- Encoding, any change of the characters that keeps their values, and decoding give the bytes back. -/
theorem hexPairs_map_hexEncode {f : Char → Char} (keeps : ∀ n, hexValue (f (hexChar n)) = some n) (p : List Byte) :
    hexPairs ((hexEncode p).map f) = some p := by
  induction p with
  | nil => rfl
  | cons b p ih =>
    simp only [hexEncode_cons, List.map_cons, hexPairs, keeps, ih, highNibble_append_lowNibble]

theorem hexDecode_map_hexEncode {f : Char → Char} (keeps : ∀ n, hexValue (f (hexChar n)) = some n) {p : List Byte}
    (sixteen : p.length = 16) : hexDecode ((hexEncode p).map f) = some p := by
  rw [hexDecode, if_pos (by rw [List.length_map, length_hexEncode, sixteen]), hexPairs_map_hexEncode keeps]

/-- The order of characters is that of their code points. -/
theorem char_le_iff_toNat_le (a b : Char) : a ≤ b ↔ a.toNat ≤ b.toNat := Iff.rfl

/-- The characters with a value are three ranges (43_forge R190). -/
theorem isSome_hexValue_iff_ranges (c : Char) :
    (hexValue c).isSome = true ↔ '0' ≤ c ∧ c ≤ '9' ∨ 'a' ≤ c ∧ c ≤ 'f' ∨ 'A' ≤ c ∧ c ≤ 'F' := by
  unfold hexValue
  split_ifs <;> simp [*]

/-- The three ranges are the hex digits in either case, code point by code point. -/
theorem isSome_hexValue (c : Char) : (hexValue c).isSome = true ↔ c ∈ "0123456789abcdefABCDEF".toList := by
  have codes : "0123456789abcdefABCDEF".toList.map Char.toNat
      = List.range' 48 10 ++ List.range' 97 6 ++ List.range' 65 6 := by decide
  rw [isSome_hexValue_iff_ranges, ← List.mem_map_of_injective (f := Char.toNat) fun _ _ => Char.toNat_inj.mp, codes]
  simp only [char_le_iff_toNat_le, Char.reduceToNat, List.mem_append, List.mem_range'_1]
  omega

/-- A pair of characters and the rest decode exactly when each of the three does (43_forge R190). -/
theorem isSome_hexPairs_cons_cons (h l : Char) (rest : List Char) :
    (hexPairs (h :: l :: rest)).isSome = ((hexValue h).isSome && (hexValue l).isSome && (hexPairs rest).isSome) := by
  rw [hexPairs]
  cases hexValue h <;> cases hexValue l <;> cases hexPairs rest <;> rfl

/-- Pairs of characters decode exactly when each has a value. -/
theorem isSome_hexPairs (k : Nat) {t : List Char} (even : t.length = 2 * k) :
    (hexPairs t).isSome = true ↔ ∀ c ∈ t, (hexValue c).isSome = true := by
  induction k generalizing t with
  | zero =>
    obtain rfl : t = [] := List.length_eq_zero_iff.mp even
    simp [hexPairs]
  | succ k ih =>
    match t, even with
    | h :: l :: rest, even =>
      have tail : rest.length = 2 * k := by simpa [Nat.mul_succ] using even
      simp only [isSome_hexPairs_cons_cons, Bool.and_eq_true, ih tail, List.forall_mem_cons, and_assoc]

/-- Settles O60: the digits by number, the round trip for the identity and for upper case, and the digits that
decode. -/
theorem hexCodecRoundTrip : Obligations.HexCodecRoundTrip := by
  refine ⟨fun b => ?_, fun p sixteen => ⟨?_, ?_⟩, fun t => ?_⟩
  · rw [← toNat_highNibble, ← toNat_lowNibble, ← hexChar_eq_getD, ← hexChar_eq_getD]
    rfl
  · simpa using hexDecode_map_hexEncode (f := id) (by decide) sixteen
  · exact hexDecode_map_hexEncode (by decide) sixteen
  · unfold hexDecode
    split
    next size => simp only [size, true_and, isSome_hexPairs 16 size, isSome_hexValue]
    next size => simp [size]

end Sys2Proof.Machine
end

section
/-! Acceptance, completion and failure of the pending command, and the interrupt (60_exceptions R200 to R210). -/

namespace Sys2Proof.Machine

variable {s t : State} {i : Instr} {c : Word} {r : Reg}

/-! ### The failure a pending word meets -/

/-- The failure of a check that answers a length. -/
def errorOf : Except Failure Nat → Option Failure
  | .error f => some f
  | .ok _ => none

/-- The first check of a command that fails (60_exceptions R206), `none` where all pass; `exec_by_commandFailure` says
that the command completes by it. -/
def commandFailure (i : Instr) (s : State) : Option Failure :=
  match i with
  | .init | .discard => none
  | .update n => updateFailure n s
  | .final => sessionFailure s
  | .pad => errorOf (lenVal s)
  | .seed n => errorOf (seedLength n s)

/-- The failure the pending word c meets at the engine's turn: the decoder's, or its command's (60_exceptions R202). -/
def wordFailure (c : Word) (s : State) : Option Failure :=
  match decode c with
  | .illegal why => some (.illegalCommand why)
  | .command i => commandFailure i s

theorem wordFailure_of_illegal {why : Illegal} (decoded : decode c = .illegal why) (s : State) :
    wordFailure c s = some (.illegalCommand why) := by
  simp only [wordFailure, decoded]

theorem wordFailure_of_command (decoded : decode c = .command i) (s : State) :
    wordFailure c s = commandFailure i s := by
  simp only [wordFailure, decoded]

/-- A command completes with the failure of its checks, or succeeds where they pass, and then ERR is as before. -/
theorem exec_by_commandFailure (i : Instr) (s : State) :
    (∃ f, commandFailure i s = some f ∧ exec i s = .next (completeFail i.opcode f s))
    ∨ commandFailure i s = none ∧ ∃ u, exec i s = .next (completeOk i.opcode u) ∧ u.err = s.err := by
  cases i with
  | init => exact .inr ⟨rfl, _, exec_init s, rfl⟩
  | discard => exact .inr ⟨rfl, _, exec_discard s, rfl⟩
  | update n =>
    cases h : updateFailure n s with
    | some f => exact .inl ⟨f, h, exec_update_fail s h⟩
    | none => exact .inr ⟨h, _, exec_update_ok s h, rfl⟩
  | final =>
    cases h : sessionFailure s with
    | some f => exact .inl ⟨f, h, exec_final_fail s h⟩
    | none => exact .inr ⟨h, _, exec_final_ok s h, rfl⟩
  | pad =>
    cases h : lenVal s with
    | error f => exact .inl ⟨f, congrArg errorOf h, exec_pad_fail s h⟩
    | ok L => exact .inr ⟨congrArg errorOf h, _, exec_pad_ok s h, writePadding_err s _⟩
  | seed n =>
    cases h : seedLength n s with
    | error f => exact .inl ⟨f, congrArg errorOf h, exec_seed_fail s h⟩
    | ok L => exact .inr ⟨congrArg errorOf h, _, exec_seed_ok s h, writePadding_err _ _⟩

/-- The engine's turn on a pending word: it completes with the failure the word meets, or succeeds where it meets
none, with bits 7:0 of the word as OP (60_exceptions R202, R203, R204). -/
theorem engineTurn_by_wordFailure (latch : s.latch = some c) :
    (∃ f, wordFailure c s = some f ∧ engineTurn s = .next (completeFail (opField c) f s))
    ∨ wordFailure c s = none ∧ ∃ u, engineTurn s = .next (completeOk (opField c) u) ∧ u.err = s.err := by
  cases decoded : decode c with
  | illegal why => exact .inl ⟨_, wordFailure_of_illegal decoded s, engineTurn_of_illegal latch decoded⟩
  | command i =>
    rw [wordFailure_of_command decoded, engineTurn_of_command latch decoded,
      show opField c = i.opcode from opcode_of_decode decoded]
    exact exec_by_commandFailure i s

/-- Settles O28, by the two ways a pending word completes. -/
theorem failuresArePrecise : Obligations.FailuresArePrecise := by
  intro s t c latch turn
  rcases engineTurn_by_wordFailure latch with ⟨f, -, completes⟩ | ⟨-, u, completes, err⟩
  all_goals
    rw [completes] at turn
    cases turn
  · refine ⟨fun _ => ?_, fun ok => absurd (by simpa using ok) (failure_code_ne_zero f)⟩
    rw [completeFail_result, resultCode_failResult, resultInfo_failResult]
    exact failedWith_completeFail (opField c) f s
  · exact ⟨fun failed => absurd (resultCode_okResult _) failed, fun _ => succeeded_completeOk err⟩

/-! ### The order of the failures -/

/-- CODE and INFO of a failure as numbers, 0 and 0 of none (60_exceptions R203, R204). -/
def codeAndInfo : Option Failure → Nat × Nat
  | none => (0, 0)
  | some f => (f.code.toNat, f.info.toNat)

/-- A word that decodes is legal, and its OP and N as numbers are its command's (30_encoding R81, R85). -/
theorem numbers_of_decode (decoded : decode c = .command i) :
    illegalInfoOf c = 0 ∧ c.toNat % 2 ^ 8 = i.opcode.toNat ∧ c.toNat / 2 ^ 8 % 2 ^ 7 = i.count.toNat := by
  rcases decode_cases c with ⟨-, d⟩ | ⟨-, d⟩ | ⟨-, d⟩ | ⟨-, d⟩ | ⟨legal, j, d, -, op, n⟩ <;> rw [d] at decoded
    <;> cases decoded
  exact ⟨legal, op, n⟩

/-- The checks of UPDATE report the session first, then the count (40_session R103). -/
theorem codeAndInfo_updateFailure (n : BitVec 7) (s : State) :
    codeAndInfo (updateFailure n s) = if s.session = .idle then (4, 1) else if s.session = .finalized then (4, 2)
      else if 2 ^ 61 - 1 < s.count.toNat + n.toNat then (5, 1) else (0, 0) := by
  have maxLen : Config.maxLen = 2 ^ 61 - 1 := rfl
  rcases updateFailure_cases n s with ⟨h, session⟩ | ⟨h, session⟩ | ⟨h, session, long⟩ | ⟨h, session, fits⟩
    <;> rw [h, session]
  · rfl
  · rfl
  · rw [if_neg (by decide), if_neg (by decide), if_pos (by omega)]
    rfl
  · rw [if_neg (by decide), if_neg (by decide), if_neg (by omega)]
    rfl

/-- The check of FINAL is the session's (40_session R106). -/
theorem codeAndInfo_sessionFailure (s : State) :
    codeAndInfo (sessionFailure s)
      = if s.session = .idle then (4, 1) else if s.session = .finalized then (4, 2) else (0, 0) := by
  rcases sessionFailure_cases s with ⟨h, session⟩ | ⟨h, session⟩ | ⟨h, session⟩ <;> rw [h, session] <;> rfl

/-- The checks of the length operand, read as a signed number (10_state R52). -/
theorem codeAndInfo_lenVal (s : State) :
    codeAndInfo (errorOf (lenVal s)) = if (lenOperand s).toInt < 0 then (3, 1)
      else if 2 ^ 61 - 1 < (lenOperand s).toInt then (3, 2) else (0, 0) := by
  obtain ⟨negative, nonneg⟩ := lenOperand_toInt s
  rcases lenVal_cases s with ⟨h, size⟩ | ⟨h, low, high⟩ | ⟨h, size⟩ <;> rw [h]
  · rw [if_pos (negative.mpr size)]
    rfl
  · rw [if_neg (by omega), if_pos (by omega)]
    rfl
  · rw [if_neg (by omega), if_neg (by omega)]
    rfl

/-- The checks of SEED report N first, then the length operand, then the count after the glue padding
(43_forge R184). -/
theorem codeAndInfo_seedLength (n : BitVec 7) (s : State) :
    codeAndInfo (errorOf (seedLength n s)) = if n.toNat ≠ 16 then (2, 1) else if (lenOperand s).toInt < 0 then (3, 1)
      else if 2 ^ 61 - 1 < (lenOperand s).toInt then (3, 2)
      else if 2 ^ 61 - 1 < (lenOperand s).toInt + (paddingFor (lenOperand s).toInt.toNat).length then (5, 2)
      else (0, 0) := by
  have maxLen : Config.maxLen = 2 ^ 61 - 1 := rfl
  obtain ⟨negative, nonneg⟩ := lenOperand_toInt s
  rcases seedLength_cases n s with ⟨h, other⟩ | ⟨rfl, h, size⟩ | ⟨rfl, h, low, high⟩ | ⟨rfl, h, size, long⟩
    | ⟨rfl, h, fits⟩ <;> rw [h]
  · have differs : n.toNat ≠ 16 := fun sixteen => other (BitVec.eq_of_toNat_eq sixteen)
    rw [if_pos differs]
    rfl
  all_goals rw [if_neg (by decide)]
  · rw [if_pos (negative.mpr size)]
    rfl
  · rw [if_neg (by omega), if_pos (by omega)]
    rfl
  · rw [nonneg (by omega), Int.toNat_natCast, if_neg (by omega), if_neg (by omega), if_pos (by omega)]
    rfl
  · rw [nonneg (by omega), Int.toNat_natCast, if_neg (by omega), if_neg (by omega), if_neg (by omega)]
    rfl

/-- Of the failures of a legal word the first in the order of 60_exceptions R206 is that of its command's checks. -/
theorem firstFailureOf_of_command (decoded : decode c = .command i) (s : State) :
    firstFailureOf c s = codeAndInfo (commandFailure i s) := by
  obtain ⟨legal, op, count⟩ := numbers_of_decode decoded
  simp only [firstFailureOf, legal, op, count]
  cases i with
  | init | discard => simp [commandFailure, codeAndInfo, Instr.opcode]
  | update n => simp [commandFailure, codeAndInfo_updateFailure, Instr.opcode, Instr.count]
  | final => simp [commandFailure, codeAndInfo_sessionFailure, Instr.opcode]
  | pad => simp [commandFailure, codeAndInfo_lenVal, Instr.opcode]
  | seed n => simp [commandFailure, codeAndInfo_seedLength, Instr.opcode, Instr.count]

/-- The first failure that applies to a word is the one it meets: IllegalCommand, or its command's (60_exceptions
R206). -/
theorem firstFailureOf_eq (c : Word) (s : State) : firstFailureOf c s = codeAndInfo (wordFailure c s) := by
  rcases decode_of_illegalInfoOf c with ⟨why, decoded, info⟩ | ⟨-, i, -, decoded⟩
  · rw [wordFailure_of_illegal decoded, firstFailureOf, if_pos (info ▸ toNat_illegalInfo_ne_zero why), info]
    rfl
  · rw [wordFailure_of_command decoded, firstFailureOf_of_command decoded]

/-- Settles O29: the word's completion reports the failure it meets, which is the first in the order. -/
theorem firstFailureIsReported : Obligations.FirstFailureIsReported := by
  intro s c latch
  rw [firstFailureOf_eq]
  rcases engineTurn_by_wordFailure latch with ⟨f, fails, completes⟩ | ⟨passes, u, completes, -⟩
  · refine ⟨_, completes, ?_, rfl, rfl⟩
    simp only [fails, codeAndInfo, BitVec.ofNat_toNat, BitVec.setWidth_eq]
    rfl
  · refine ⟨_, completes, ?_, rfl, rfl⟩
    rw [passes]
    exact okResult_eq _

/-! ### The step, acceptance and the interrupt -/

/-- Settles O8: at the engine's turn the latched command runs, from the agenda or with the agenda used up. -/
theorem stepRunsTheLatchedCommand : Obligations.StepRunsTheLatchedCommand := by
  intro s c i latch decoded
  refine ⟨fun rest agenda => ?_, fun agenda => ?_⟩
  · rw [step_of_agenda_cons agenda]
    exact engineTurn_of_command (s := { s with agenda := rest }) latch decoded
  · rw [step_of_agenda_nil agenda, engineTurn_of_command latch decoded]

/-- While BUSY a write to a locked register is dropped and sets OVR (70_reset R250). -/
theorem writeReg_of_locked (v : Word) (busy : s.busy = true) (locked : r.lockedWhileBusy = true) :
    writeReg r v s = { s with ovr := true } := by
  simp [writeReg, busy, locked]

/-- Settles O32, by whether the word is accepted or dropped. -/
theorem cmdWriteIsAcceptedWhenIdle : Obligations.CmdWriteIsAcceptedWhenIdle := by
  intro s c
  refine ⟨fun idle => ⟨_, hostWr_eq .cmd c s, ?_⟩, fun busy => ⟨_, hostWr_eq .cmd c s, ?_⟩⟩
  · rw [writeReg_cmd c idle]
    exact ⟨rfl, rfl⟩
  · rw [writeReg_of_locked c busy rfl]
    rfl

/-- The bits of IRQ_EN as the host reads them (10_state R34). -/
theorem getLsbD_peek_irqEn (s : State) :
    (peek s .irqEn).getLsbD 0 = s.doneIe ∧ (peek s .irqEn).getLsbD 1 = s.errIe := by
  simp only [peek, irqEnWord, BitVec.getLsbD_append, BitVec.getLsbD_ofBool]
  simp

/-- Settles O44, by the bits of STATUS and IRQ_EN that the formula reads. -/
theorem irqIsALevelOfDoneAndErr : Obligations.IrqIsALevelOfDoneAndErr := by
  intro s
  obtain ⟨doneIe, errIe⟩ := getLsbD_peek_irqEn s
  refine ⟨?_, fun _ _ => rfl⟩
  rw [doneIe, errIe, getLsbD_peek_status, getLsbD_peek_status]
  rfl

end Sys2Proof.Machine
end

section
/-! Reset, and what the busy engine does with its pending word and with writes (70_reset R240, R250, R253). -/

namespace Sys2Proof.Machine

variable {s : State} {c : Word}

/-! ### The pending word runs -/

/-- The engine's turn completes the pending word, by success or by failure (60_exceptions R203, R204). -/
theorem engineTurn_completes (latch : s.latch = some c) :
    ∃ u, engineTurn s = .next u ∧ u.busy = false ∧ u.done = true ∧ resultOp u.result = c.extractLsb' 0 8 := by
  rcases engineTurn_by_wordFailure latch with ⟨f, -, fails⟩ | ⟨-, u, succeeds, -⟩
  · exact ⟨_, fails, rfl, rfl, resultOp_failResult _ f⟩
  · exact ⟨_, succeeds, rfl, rfl, resultOp_okResult _⟩

/-- A host access leaves a word that is pending where it is (70_reset R250). -/
theorem busAccess_pending (a : Access) (latch : s.latch = some c) : (busAccess a s).latch = some c := by
  rcases busAccess_latch a s with ⟨_, -, idle, -⟩ | ⟨same, -⟩
  · exact absurd (busy_of_latch latch) (by simp [idle])
  · exact same.trans latch

/-- A host access changes nothing of the agenda, whatever its effect (log 1). -/
theorem busAccess_agenda (a : Access) (s : State) : (busAccess a s).agenda = s.agenda := by
  obtain ⟨x, u, access, effect⟩ := busAccess_cases a s
  rw [access]
  rcases effect with rfl | ⟨_, rfl⟩ | ⟨_, rfl⟩ | ⟨_, -, -, rfl⟩ | ⟨_, -, rfl⟩ | ⟨_, rfl⟩ | ⟨-, _, _, _, rfl⟩ <;> rfl

/-- Settles O10, by induction on the agenda: its head is the engine's turn, which completes the word, or a host access,
which leaves the word pending; with the agenda used up it is the engine's turn. -/
theorem pendingCommandEventuallyRuns : Obligations.PendingCommandEventuallyRuns := by
  intro s c latch noReset
  generalize agenda : s.agenda = events at noReset ⊢
  induction events generalizing s with
  | nil =>
    obtain ⟨u, turn, completed⟩ := engineTurn_completes latch
    exact ⟨0, Nat.le_refl 0, s, u, rfl, latch, (step_of_agenda_nil agenda).trans turn, completed⟩
  | cons e rest ih =>
    cases e with
    | reset => exact absurd List.mem_cons_self noReset
    | engine =>
      obtain ⟨u, turn, completed⟩ := engineTurn_completes (s := { s with agenda := rest }) latch
      exact ⟨0, Nat.zero_le _, s, u, rfl, latch, (step_of_agenda_cons agenda).trans turn, completed⟩
    | access a =>
      have first : step s = .next (busAccess a { s with agenda := rest }) := step_of_agenda_cons agenda
      obtain ⟨k, bound, t, u, run, pending, completes⟩ := ih (busAccess a { s with agenda := rest })
        (busAccess_pending a latch) (busAccess_agenda a _) (fun later => noReset (List.mem_cons_of_mem _ later))
      exact ⟨k + 1, Nat.succ_le_succ bound, t, u, (steps_succ k first).trans run, pending, completes⟩

/-! ### Reset -/

/-- No register shows what the agents still do or have seen, so a reset leaves each as in the reset state (log 5). -/
theorem peek_resetEngine (s : State) (r : Reg) : peek (resetEngine s) r = peek State.reset r := by
  cases r <;> rfl

/-- In the reset state every register but ID reads 0 (10_state R46). -/
theorem peek_reset (r : Reg) : peek State.reset r = if r = .id then 0x4D443401 else 0 := by
  cases r with
  | msgIn i => exact Vector.getElem_replicate i.isLt
  | padOut i => exact Vector.getElem_replicate i.isLt
  | _ => decide

/-- Settles O1: the state after a reset is `resetEngine s`, in which BUSY = 0. -/
theorem resetGivesEveryRegisterItsResetValue : Obligations.ResetGivesEveryRegisterItsResetValue := fun s =>
  ⟨resetEngine s, rfl, rfl, fun r => (peek_resetEngine s r).trans (peek_reset r), resetEngine_session s,
    resetEngine_buf s, resetEngine_latch s, rfl, engineTurn_of_idle (resetEngine_busy s)⟩

/-! ### Writes while busy -/

/-- Settles O33: a write to a locked register sets OVR, and STATUS and IRQ_EN are not locked. -/
theorem busyWritesAreDropped : Obligations.BusyWritesAreDropped := by
  intro s v busy
  refine ⟨fun r named => ⟨_, hostWr_eq r v s, ?_⟩, ⟨_, hostWr_eq .status v s, ?_⟩, ⟨_, hostWr_eq .irqEn v s, ?_⟩⟩
  · have locked : r.lockedWhileBusy = true := by rcases named with rfl | rfl | rfl | ⟨i, rfl⟩ <;> rfl
    rw [writeReg_of_locked v busy locked]
    rfl
  · rw [writeReg_status]
    rfl
  · rw [writeReg_irqEn]
    rfl

end Sys2Proof.Machine
end
